-- ==== Sys2Proof/Word.lean ====
section
/-!
DEFINITION. The word types of the engine: the widths of spec/00_scope.md R6 and R8.
-/

namespace Sys2Proof

/-- `u64` (R8): `state`, `inc`, the operands `A` and `B`, the `data` field of a response. -/
abbrev U64 := BitVec 64

/-- `u32` (R8): a draw, a bound, a threshold. An `i32` of the host layer is the same 32 bits read
as two's complement (`BitVec.toInt`). -/
abbrev U32 := BitVec 32

/-- `u8` (R8): one byte of a stored word or of the host's buffer. -/
abbrev U8 := BitVec 8

/-- One transfer on port `CMD` (R56, R60): `op` 135:128, `A` 127:64, `B` 63:0. -/
abbrev CmdWord := BitVec 136

/-- One transfer on port `RSP` (R56, R66): `status` 71:64, `data` 63:0. -/
abbrev RspWord := BitVec 72

end Sys2Proof
end

