-- ==== Sys2Proof/Config.lean ====
section
/-!
DEFINITION. The hardwired constants of spec/00_scope.md R6 (also spec/10_state.md R26), and the two
values the spec leaves open, as constants with no body.
-/

namespace Sys2Proof

/-- `MULT`, the LCG multiplier (R6, R26, R101). -/
def Config.mult : U64 := 6364136223846793005#64

/-- `DEFAULT_INC`, loaded into `inc` by reset and by `SEED_STATE` (R6, R26). -/
def Config.defaultInc : U64 := 0xDA3E39CB94B95BDB#64

/-- `SH1`, the first xorshift distance (R6, R102). -/
def Config.sh1 : Nat := 18

/-- `SH2`, the second shift distance (R6, R102). -/
def Config.sh2 : Nat := 27

/-- `ROT_SH`, the shift that extracts the rotation amount (R6, R102). -/
def Config.rotSh : Nat := 59

/-- `CMD_W` (R7, R60): every command word has this many bits. -/
def Config.cmdWidth : Nat := 136

/-- `RESET_STATE` of the k-th reset (R31, R175, D9, U1): the spec leaves it open, "not assumed equal
across resets". A free value: no body, so nothing can be proved about it. Power-on is reset number 0.
DESIGN CHOICE of form: notes/assumptions/4.md, 23.md. -/
opaque Config.resetState : Nat → U64

/-- Whether the host withdraws the word it holds on `CMD` when the k-th reset comes (R157, U9: "`any
value` of a two-way choice"). A free value, no body. DESIGN CHOICE of form: notes/assumptions/5.md. -/
opaque Config.presentedWithdrawn : Nat → Bool

end Sys2Proof
end

