-- ==== Sys2Proof/Syntax.lean ====
section
/-!
DEFINITION. The six commands (spec/30_encoding.md R61, spec/opcode_table.json) and the raw fields of
format `C` (R60).
-/

namespace Sys2Proof

/-- A command the engine executes: one constructor per row of spec/opcode_table.json (R61). Operands
have exactly the widths R69 gives them, so a bound of `2^32` or more cannot be spelled. -/
inductive Instr where
  /-- `SEED state, sequence`, `op = 0x01` (R90). -/
  | seed (a b : U64)
  /-- `SEED_STATE state`, `op = 0x02` (R91). -/
  | seedState (a : U64)
  /-- `NEXT_U32`, `op = 0x03` (R100). -/
  | nextU32
  /-- `RANGE bound`, `op = 0x04` (R110). -/
  | range (bound : U32)
  /-- `RD_STATE`, `op = 0x05` (R125). -/
  | rdState
  /-- `RD_INC`, `op = 0x06` (R126). -/
  | rdInc
  deriving DecidableEq, Repr

/-- The fields of a word of format `C`, not yet checked (R60). -/
structure Fields where
  op : U8
  a : U64
  b : U64
  deriving DecidableEq, Repr

/-- One row of the decode table (R62): a word `w` selects the row when `w & mask = pattern` (the
spec's `match`, a word Lean keeps for itself). -/
structure Row where
  mnemonic : String
  mask : CmdWord
  pattern : CmdWord
  deriving DecidableEq, Repr

/-- Why a word selects no command (R65). -/
inductive Illegal where
  /-- `op` is `0x00` or in `0x07` to `0xFF`. -/
  | undefinedOpcode
  /-- A defined `op` with a must-be-zero bit set. -/
  | mustBeZero
  deriving DecidableEq, Repr

/-- What a 136-bit word decodes to (R64): one of the six commands, or `ILLEGAL` with its reason. -/
inductive Decoded where
  | command (i : Instr)
  | illegal (why : Illegal)
  deriving DecidableEq, Repr

/-- What a stored byte sequence decodes to (R44: a command word is 17 bytes): a command or an illegal
word, with the bytes after it, or too few bytes for a word. -/
inductive BytesDecoded where
  | command (i : Instr) (rest : List U8)
  | illegal (why : Illegal) (rest : List U8)
  | truncated
  deriving DecidableEq, Repr

end Sys2Proof
end

