-- ==== Sys2Proof/WellFormed.lean ====
section
/-!
DEFINITION. When the raw fields of a format `C` word spell a command: the opcode is defined (R61) and
the bits the command does not use are zero (R63). A term of `Instr` needs no check of its own: its
operand widths are those of R69, so every term can be spelled.
-/

namespace Sys2Proof

/-- `op` is one of the six opcodes of R61. -/
def Fields.opDefined (f : Fields) : Bool :=
  decide (1 ≤ f.op.toNat ∧ f.op.toNat ≤ 6)

/-- The must-be-zero bits of R63 are zero: "all of `A` and `B` for `NEXT_U32`, `RD_STATE`, `RD_INC`;
all of `B` for `SEED_STATE`; all of `A` and `B[63:32]` for `RANGE`". -/
def Fields.mbzClear (f : Fields) : Bool :=
  match f.op.toNat with
  | 2 => f.b == 0#64
  | 3 => f.a == 0#64 && f.b == 0#64
  | 4 => f.a == 0#64 && f.b >>> 32 == 0#64
  | 5 => f.a == 0#64 && f.b == 0#64
  | 6 => f.a == 0#64 && f.b == 0#64
  | _ => true

/-- The fields spell a command (R63, R65). -/
def Fields.wf (f : Fields) : Bool :=
  f.opDefined && f.mbzClear

/-- Every term of `Instr` is well formed: R69 leaves its operands no value out. -/
def Instr.wf : Instr → Bool
  | .seed _ _ => true
  | .seedState _ => true
  | .nextU32 => true
  | .range _ => true
  | .rdState => true
  | .rdInc => true

end Sys2Proof
end

