-- ==== Sys2Proof/Decode.lean ====
section
/-!
DEFINITION. Decoding and encoding command words: spec/30_encoding.md R60 to R65, R69, R73, and the byte
order of a stored word, spec/20_memory.md R44.
-/

namespace Sys2Proof

/-- Bits 135:128 (R60). -/
def wordOp (w : CmdWord) : U8 := w.extractLsb' 128 8

/-- Bits 127:64 (R60). -/
def wordA (w : CmdWord) : U64 := w.extractLsb' 64 64

/-- Bits 63:0 (R60). -/
def wordB (w : CmdWord) : U64 := w.extractLsb' 0 64

/-- `bound = B[31:0]` (R61, R69). -/
def wordBound (w : CmdWord) : U32 := w.extractLsb' 0 32

/-- The three fields of format `C` (R60). -/
def fieldsOf (w : CmdWord) : Fields := ⟨wordOp w, wordA w, wordB w⟩

/-- The word with the given fields: `op * 2^128 + A * 2^64 + B` (R60). -/
def packFields (f : Fields) : CmdWord := f.op ++ f.a ++ f.b

/-- R62, row `SEED`. -/
def seedRow : Row :=
  ⟨"SEED", 0xFF00000000000000000000000000000000#136, 0x0100000000000000000000000000000000#136⟩

/-- R62, row `SEED_STATE`. -/
def seedStateRow : Row :=
  ⟨"SEED_STATE", 0xFF0000000000000000FFFFFFFFFFFFFFFF#136, 0x0200000000000000000000000000000000#136⟩

/-- R62, row `NEXT_U32`. -/
def nextU32Row : Row :=
  ⟨"NEXT_U32", 0xFFFFFFFFFFFFFFFFFFFFFFFFFFFFFFFFFF#136, 0x0300000000000000000000000000000000#136⟩

/-- R62, row `RANGE`. -/
def rangeRow : Row :=
  ⟨"RANGE", 0xFFFFFFFFFFFFFFFFFFFFFFFFFF00000000#136, 0x0400000000000000000000000000000000#136⟩

/-- R62, row `RD_STATE`. -/
def rdStateRow : Row :=
  ⟨"RD_STATE", 0xFFFFFFFFFFFFFFFFFFFFFFFFFFFFFFFFFF#136, 0x0500000000000000000000000000000000#136⟩

/-- R62, row `RD_INC`. -/
def rdIncRow : Row :=
  ⟨"RD_INC", 0xFFFFFFFFFFFFFFFFFFFFFFFFFFFFFFFFFF#136, 0x0600000000000000000000000000000000#136⟩

/-- The table of R62 (and of spec/opcode_table.json, R74). -/
def opcodeRows : List Row :=
  [seedRow, seedStateRow, nextU32Row, rangeRow, rdStateRow, rdIncRow]

/-- "A 136-bit word `w` selects a command when `w & mask = match`" (R62). -/
def selects (r : Row) (w : CmdWord) : Bool := w &&& r.mask == r.pattern

/-- Why a word that selects no row is illegal (R65). -/
def illegalReason (w : CmdWord) : Illegal :=
  if (fieldsOf w).opDefined then .mustBeZero else .undefinedOpcode

/-- Decoding, total on 136-bit words (R64): "test the six rows of rule R62 in any order (they are
disjoint); if none matches the result is `ILLEGAL`". It reads no engine state. -/
def decode (w : CmdWord) : Decoded :=
  if selects seedRow w then .command (.seed (wordA w) (wordB w))
  else if selects seedStateRow w then .command (.seedState (wordA w))
  else if selects nextU32Row w then .command .nextU32
  else if selects rangeRow w then .command (.range (wordBound w))
  else if selects rdStateRow w then .command .rdState
  else if selects rdIncRow w then .command .rdInc
  else .illegal (illegalReason w)

/-- The 17 bytes of a stored command word, byte `k` holding bits `8k+7:8k` (R44). -/
def wordBytes (w : CmdWord) : List U8 :=
  (List.range 17).map fun k => w.extractLsb' (8 * k) 8

/-- The number that bytes spell in little-endian order (R44). -/
def bytesNat : List U8 → Nat
  | [] => 0
  | b :: bs => b.toNat + 256 * bytesNat bs

/-- Decoding a stored word, total on bytes: always 17 of them, "without looking" (R44, R73). -/
def decodeBytes (bs : List U8) : BytesDecoded :=
  if bs.length < 17 then .truncated
  else
    match decode (BitVec.ofNat 136 (bytesNat (bs.take 17))) with
    | .command i => .command i (bs.drop 17)
    | .illegal why => .illegal why (bs.drop 17)

/-- An instruction as spec/opcode_table.json numbers its bits: bits at or above `nbits` are zero. One
word of 136 bits, so the numbering is R60's. -/
def tableWord (nbits w : Nat) : CmdWord := BitVec.ofNat 136 (w % 2 ^ nbits)

/-- The instruction the decoder reads from the stored bytes of a table word. A row longer than a command
word does not exist ("There is no other length", R60): notes/assumptions/17.md. -/
def decodeTableWord (nbits w : Nat) : Option Instr :=
  if nbits ≤ Config.cmdWidth then
    match decodeBytes (wordBytes (tableWord nbits w)) with
    | .command i _ => some i
    | .illegal _ _ => none
    | .truncated => none
  else none

/-- The fields each command is spelled with (R61, R63). -/
def instrFields : Instr → Fields
  | .seed a b => ⟨0x01#8, a, b⟩
  | .seedState a => ⟨0x02#8, a, 0#64⟩
  | .nextU32 => ⟨0x03#8, 0#64, 0#64⟩
  | .range bound => ⟨0x04#8, 0#64, bound.setWidth 64⟩
  | .rdState => ⟨0x05#8, 0#64, 0#64⟩
  | .rdInc => ⟨0x06#8, 0#64, 0#64⟩

/-- The one word that spells a command (R60, R61; D5: "each command has exactly one spelling"). -/
def encode (i : Instr) : CmdWord := packFields (instrFields i)

/-- The stored bytes of a command (R44). -/
def encodeBytes (i : Instr) : List U8 := wordBytes (encode i)

end Sys2Proof
end

