-- ==== Sys2Proof/Machine/Flags.lean ====
section
/-!
DEFINITION. The outcome of a command. The engine has no flags, condition codes or sticky bits: "The
outcome of a command is carried only by the `status` field of its response" (spec/10_state.md R25). So
this file holds the status codes and the response word (spec/30_encoding.md R66 to R68).
-/

namespace Sys2Proof.Machine

/-- The named status codes (R67). -/
inductive Status where
  | ok
  /-- `SEED` with an even sequence (R151). -/
  | invalidSequence
  /-- The host layer only, "never by the engine" (R67, R153). -/
  | invalidBound
  /-- A word that selects no command (R152). -/
  | illegalCommand
  deriving DecidableEq, Repr

/-- The numbers of R67. -/
def statusCode : Status → U8
  | .ok => 0x00#8
  | .invalidSequence => 0x01#8
  | .invalidBound => 0x02#8
  | .illegalCommand => 0x03#8

/-- The response word `status * 2^64 + data` (R66). -/
def responseWord (st : Status) (data : U64) : RspWord := statusCode st ++ data

/-- `status`, bits 71:64 (R66). -/
def responseStatus (r : RspWord) : U8 := r.extractLsb' 64 8

/-- `data`, bits 63:0 (R66). -/
def responseData (r : RspWord) : U64 := r.extractLsb' 0 64

/-- The 9 bytes of a stored response word, byte `k` holding bits `8k+7:8k` (spec/20_memory.md R44). -/
def responseBytes (r : RspWord) : List U8 :=
  (List.range 9).map fun k => r.extractLsb' (8 * k) 8

end Sys2Proof.Machine
end

