-- ==== Sys2Proof/Machine/Operands.lean ====
section
/-!
DEFINITION. The operand forms of the commands and of the data they answer with: spec/30_encoding.md R68,
R69; spec/20_memory.md R45. Every operand is a whole unsigned word: "No operand is scaled, shifted,
sign-extended or assembled from scattered bits" (R69).
-/

namespace Sys2Proof.Machine

/-- The value check of `SEED` on its sequence, `B mod 2 = 1` (spec/40_seed.md R90). -/
def sequenceIsOdd (b : U64) : Bool := b.toNat % 2 == 1

/-- A 32-bit result in a `data` field: "`data[63:32] = 0`" (R68, R45). -/
def zext64 (r : U32) : U64 := r.setWidth 64

/-- The 32-bit result a host reads back from a `data` field, `data[31:0]` (R68). -/
def low32 (d : U64) : U32 := d.extractLsb' 0 32

end Sys2Proof.Machine
end

