-- ==== Sys2Proof/Machine/State.lean ====
section
/-!
DEFINITION. The engine's state (spec/10_state.md R20 to R33), the words that cross its ports
(spec/30_encoding.md R56), and the state after reset (R31, spec/70_reset_and_hazards.md R175).
-/

namespace Sys2Proof.Machine

/-- The reducer's control state `phase` with the latches `bound_q` and `thr_q`, which hold a value in
`LOOP` only: "a model should make them fields of the `LOOP` constructor" (R27, U6). -/
inductive Phase where
  /-- No command is in progress; the next one is accepted. -/
  | idle
  /-- A `RANGE` with a non-zero bound has been accepted and has not yet responded. -/
  | loop (boundQ thrQ : U32)
  deriving DecidableEq, Repr

/-- Faults: none. "The engine has no trap mechanism" (spec/60_exceptions.md, opening and R158): an error
is a response, and every command goes on. No definition raises one; safe (notes/assumptions/9.md). -/
inductive Fault where
  deriving DecidableEq, Repr

/-- Refusals. -/
inductive Refusal where
  /-- An instruction with no meaning yet, by its mnemonic. No arm of `exec` raises it: all six commands
  have their meaning. Safe. -/
  | notModelled (mnemonic : String)
  deriving DecidableEq, Repr

end Sys2Proof.Machine

namespace Sys2Proof.Machine

/-- The machine: the elements of R20, then the traffic of the three ports of R56, then the model's own
counter. There is no memory (R40) and no program counter (R24).

`state`, `inc`, `phase`: R20 to R27.
`cmd`: the words the host presents on `CMD`, the head being the one on the channel (R57); log entry 1.
`rsp`: the responses produced on `RSP`, oldest first (R75); log entry 2.
`rst`: whether the environment raises `rst` at each coming step boundary (R176); a list that has ended
raises none; log entry 3.
`unanswered`: the last command that left `CMD` got no response and never gets one, since a reset abandoned it
or the host withdrew it at one (R177, R179, D12); of meaning in `IDLE`, since in `LOOP` that command is the `RANGE` in
progress; the host's side, read by no step of the engine; log entry 25.
`resets`: how many resets there have been, the index of the free values; the model's own, log entry 4. -/
structure State where
  state : U64
  inc : U64
  phase : Phase
  cmd : List CmdWord
  rsp : List RspWord
  rst : List Bool
  unanswered : Bool
  resets : Nat
  deriving DecidableEq, Repr

/-- Right after power-on, which "equals reset" (R31, R175, R176, D9): `inc = DEFAULT_INC`, `phase = IDLE`,
`state` the open `RESET_STATE`; nothing presented, nothing answered. -/
def State.reset : State :=
  { state := Config.resetState 0
    inc := Config.defaultInc
    phase := .idle
    cmd := []
    rsp := []
    rst := []
    unanswered := false
    resets := 1 }

end Sys2Proof.Machine
end

