-- ==== Sys2Proof/Machine/Ops.lean ====
section
/-!
DEFINITION. The shared operations: the arithmetic of spec/00_scope.md R9 and R11 and of
spec/41_core_step.md R101, R102; reading and writing the registers; `respond` and `reject` (R10), which is
all that taking an error is on this hardware (spec/60_exceptions.md R158); accepting a command (R57); one
draw (R100).
-/

namespace Sys2Proof.Machine

/-! ### The pure functions of the core step -/

/-- Rotate right within a 32-bit word, `0 ≤ r ≤ 31` (R9, R105):
`(x >> r) | (x << ((32 - r) mod 32))`. -/
def ror32 (x : U32) (r : Nat) : U32 := x >>> r ||| x <<< ((32 - r) % 32)

/-- `adv(s, i) = (s * MULT + i) mod 2^64` (R11, R101). The product is written with the constant first, so
that Lean's kernel, which unfolds a product along its second factor, never counts up to `MULT`. -/
def adv (s i : U64) : U64 := Config.mult * s + i

/-- `xsh(s) = trunc32(((s >> 18) ^ s) >> 27)` (R11, R102). -/
def xsh (s : U64) : U32 := ((s >>> Config.sh1 ^^^ s) >>> Config.sh2).setWidth 32

/-- `rot(s) = s >> 59`, 0 to 31 (R11, R102). -/
def rot (s : U64) : Nat := (s >>> Config.rotSh).toNat

/-- The output permutation `out(s) = ror32(xsh(s), rot(s))` (R11, R102). -/
def out (s : U64) : U32 := ror32 (xsh s) (rot s)

/-- The state after `n` draws: `s_0 = s`, `s_{k+1} = adv(s_k, i)` (R107 (c), R112). -/
def stateAfter (s i : U64) : Nat → U64
  | 0 => s
  | n + 1 => adv (stateAfter s i n) i

/-! ### Writing the state -/

/-- `state <- v`. -/
def writeState (v : U64) (s : State) : State := { s with state := v }

/-- `inc <- v`. -/
def writeInc (v : U64) (s : State) : State := { s with inc := v }

/-- `phase <- p`, with the latches of `LOOP` (R27). -/
def writePhase (p : Phase) (s : State) : State := { s with phase := p }

/-- What the host presents on `CMD` becomes `ws`. -/
def writeCmd (ws : List CmdWord) (s : State) : State := { s with cmd := ws }

/-- One transfer on `RSP` (R56, R75): the response to the last command that left `CMD`, which so is answered. -/
def sendResponse (r : RspWord) (s : State) : State := { s with rsp := s.rsp ++ [r], unanswered := false }

/-- The host begins a new script `ws`: none of its commands has gone unanswered (R24, R177). -/
def beginScript (ws : List CmdWord) (s : State) : State := { s with cmd := ws, unanswered := false }

/-- A step boundary has gone by in the environment's schedule of `rst` (R176). -/
def passBoundary (s : State) : State := { s with rst := s.rst.tail }

/-! ### Responses, errors, acceptance -/

/-- `respond(status, data)` (R10, R66). -/
def respond (st : Status) (data : U64) (s : State) : State := sendResponse (responseWord st data) s

/-- `reject(status)`: "`respond(status, 0)` with no write to any state element" (R10). This is the whole
of taking an error: "no register is saved, no mode changes, no mask changes, control goes nowhere"
(R158). There is nothing to return from (R159). -/
def reject (st : Status) (s : State) : State := respond st 0#64 s

/-- Accept a command. The engine accepts one "only when `phase = IDLE`"; in `LOOP` the command "waits; it
is not lost, not reordered and not examined" (R57, R113), so nothing changes. DEDUCED, safe:
notes/assumptions/6.md. -/
def whenIdle (f : State → State) (s : State) : Host.Outcome State Fault Refusal :=
  match s.phase with
  | .idle => .next (f s)
  | .loop _ _ => .next s

/-- The environment raises `rst` at this step boundary (R176). -/
def rstRaised (s : State) : Bool := s.rst.headD false

/-- The engine is idle and nothing is presented: the host may begin a script (R57, R181). -/
def channelFree (s : State) : Bool := s.phase == .idle && s.cmd.isEmpty

/-- "A command script is over when the host has received the response to its last command. At that point
`phase = IDLE`" (R179): nothing waits on `CMD`, and the last command that left it was answered. A host whose
last command a reset took away "waits for ever" (D12). notes/assumptions/25.md. -/
def runOver (s : State) : Bool := channelFree s && !s.unanswered

/-! ### One draw -/

/-- The 32-bit output of the next draw, taken from the old state (R103). -/
def drawOutput (s : State) : U32 := out s.state

/-- The write of one draw: `state <- adv(state, inc)`, nothing else (R100, R101). -/
def drawAdvance (s : State) : State := writeState (adv s.state s.inc) s

end Sys2Proof.Machine
end

