-- ==== Sys2Proof/Machine/CoreStep.lean ====
section
/-!
DEFINITION. The core step as a command, `NEXT_U32`: spec/41_core_step.md R100 to R108.
-/

namespace Sys2Proof.Machine

/-- What an accepted `NEXT_U32` does (R100): the output comes from the old state (R103). -/
def nextU32Effect (s : State) : State :=
  respond .ok (zext64 (drawOutput s)) (drawAdvance s)

/-- `NEXT_U32` (R100). -/
def execNextU32 (s : State) : Host.Outcome State Fault Refusal :=
  whenIdle nextU32Effect s

end Sys2Proof.Machine
end

