-- ==== Sys2Proof/Machine/Inspect.lean ====
section
/-!
DEFINITION. State read-out, `RD_STATE` and `RD_INC`: spec/43_inspect.md R125 to R127.
-/

namespace Sys2Proof.Machine

/-- What an accepted `RD_STATE` does (R125): `respond(OK, state)`. -/
def rdStateEffect (s : State) : State := respond .ok s.state s

/-- `RD_STATE` (R125). -/
def execRdState (s : State) : Host.Outcome State Fault Refusal :=
  whenIdle rdStateEffect s

/-- What an accepted `RD_INC` does (R126): `respond(OK, inc)`. -/
def rdIncEffect (s : State) : State := respond .ok s.inc s

/-- `RD_INC` (R126). -/
def execRdInc (s : State) : Host.Outcome State Fault Refusal :=
  whenIdle rdIncEffect s

end Sys2Proof.Machine
end

