-- ==== Sys2Proof/Machine/Range.lean ====
section
/-!
DEFINITION. The range reducer `RANGE`: spec/42_range.md, acceptance (R113), micro-steps (R114 to R116), and
the command-level function (R110 to R112).
-/

namespace Sys2Proof.Machine

/-- `threshold = (2^32 - bound) mod bound` (R111), for `bound ≥ 1`; "evaluated only with a non-zero
divisor" (R119 (a)). -/
def threshold (b : U32) : U32 := BitVec.ofNat 32 ((2 ^ 32 - b.toNat) % b.toNat)

/-- `r mod bound`, the unsigned remainder, for `bound ≥ 1` (R110, R119 (a)). -/
def reduce (r b : U32) : U32 := BitVec.ofNat 32 (r.toNat % b.toNat)

/-- A draw is accepted when `r >= thr_q`, unsigned; a draw equal to the threshold is (R115, R119 (j)). -/
def drawAccepted (r t : U32) : Bool := decide (t.toNat ≤ r.toNat)

/-- What accepting `RANGE b` does (R113): `b = 0` answers 0 and draws nothing; otherwise the bound and
the threshold are latched and `phase <- LOOP`, "no response yet, no draw yet". -/
def rangeEffect (b : U32) (s : State) : State :=
  if b = 0#32 then respond .ok 0#64 s else writePhase (.loop b (threshold b)) s

/-- `RANGE` (R110, R113). The draws are the micro-steps that follow, one a step. -/
def execRange (b : U32) (s : State) : Host.Outcome State Fault Refusal :=
  whenIdle (rangeEffect b) s

/-- The engine's only enabled step in `LOOP` (R114): one draw, whose advance is kept either way; then
R115 (respond, back to `IDLE`) or R116 (stay). `b` and `t` are `bound_q` and `thr_q`. -/
def microStep (b t : U32) (s : State) : State :=
  if drawAccepted (drawOutput s) t then
    writePhase .idle (respond .ok (zext64 (reduce (drawOutput s) b)) (drawAdvance s))
  else drawAdvance s

/-- The answer of the command-level function `rng` (R112): the result, the final state, and the number
of draws made. -/
structure RngAnswer where
  result : U32
  final : U64
  draws : Nat
  deriving DecidableEq, Repr

/-- The command-level loop of R110 and R112 with fuel, `done` draws rejected so far: "fuel exhaustion must
be a stuck state, never a value" (D10, U4), so none. DESIGN CHOICE, safe: notes/assumptions/16.md. -/
def rngLoop (i : U64) (b t : U32) : Nat → Nat → U64 → Option RngAnswer
  | 0, _, _ => none
  | fuel + 1, done, s =>
    if drawAccepted (out s) t then some ⟨reduce (out s) b, adv s i, done + 1⟩
    else rngLoop i b t fuel (done + 1) (adv s i)

/-- `rng(s, i, b)` of R112, for `b ≥ 1`, within `fuel` draws. -/
def rng (fuel : Nat) (s i : U64) (b : U32) : Option RngAnswer :=
  rngLoop i b (threshold b) fuel 0 s

end Sys2Proof.Machine
end

