-- ==== Sys2Proof/Machine/Seed.lean ====
section
/-!
DEFINITION. The seeding commands `SEED` and `SEED_STATE`: spec/40_seed.md R90 to R93.
-/

namespace Sys2Proof.Machine

/-- What an accepted `SEED a, b` does (R90). The check comes before any write (R92). -/
def seedEffect (a b : U64) (s : State) : State :=
  if sequenceIsOdd b then respond .ok 0#64 (writeInc b (writeState a s))
  else reject .invalidSequence s

/-- `SEED` (R90). -/
def execSeed (a b : U64) (s : State) : Host.Outcome State Fault Refusal :=
  whenIdle (seedEffect a b) s

/-- What an accepted `SEED_STATE a` does (R91): `inc` is overwritten "whatever inc held before". -/
def seedStateEffect (a : U64) (s : State) : State :=
  respond .ok 0#64 (writeInc Config.defaultInc (writeState a s))

/-- `SEED_STATE` (R91). -/
def execSeedState (a : U64) (s : State) : Host.Outcome State Fault Refusal :=
  whenIdle (seedStateEffect a) s

end Sys2Proof.Machine
end

