-- ==== Sys2Proof/Machine/Dispatch.lean ====
section
/-! DEFINITION. The dispatch: one arm per command (spec/30_encoding.md R61). -/

namespace Sys2Proof.Machine

def exec (i : Instr) (s : State) : Host.Outcome State Fault Refusal :=
  match i with
  | .seed a b => Sys2Proof.Machine.execSeed a b s
  | .seedState a => Sys2Proof.Machine.execSeedState a s
  | .nextU32 => Sys2Proof.Machine.execNextU32 s
  | .range bound => Sys2Proof.Machine.execRange bound s
  | .rdState => Sys2Proof.Machine.execRdState s
  | .rdInc => Sys2Proof.Machine.execRdInc s

end Sys2Proof.Machine
end

