-- ==== Sys2Proof/Machine/Accept.lean ====
section
/-!
DEFINITION. What the engine does between two step boundaries: react to the word on `CMD` when idle
(spec/30_encoding.md R57, R65; spec/60_exceptions.md R152, R156), make one draw in `LOOP` (R114); and the
event `rst` (spec/70_reset_and_hazards.md R175 to R177).
-/

namespace Sys2Proof.Machine

/-- An accepted word (R156): decoding first; an illegal word is answered `IllegalCommand` "and nothing
else is examined"; otherwise the command runs. Answering rather than refusing is R152's own rule:
notes/assumptions/8.md. -/
def acceptWord (w : CmdWord) (s : State) : Host.Outcome State Fault Refusal :=
  match decode w with
  | .command i => exec i s
  | .illegal _ => .next (reject .illegalCommand s)

/-- One step of the engine itself: in `LOOP` the micro-step is "the engine's only enabled step" (R114) and
the words on `CMD` wait (R57); in `IDLE` the word on `CMD` is accepted and consumed (R54); "an `IDLE`
engine with no command presented simply does nothing" (R173). -/
def engineStep (s : State) : Host.Outcome State Fault Refusal :=
  match s.phase with
  | .loop b t => .next (microStep b t s)
  | .idle =>
    match s.cmd with
    | [] => .next s
    | w :: ws => acceptWord w (writeCmd ws s)

/-- The words on `CMD` after a reset (R157, U9): the presented one stays waiting or is withdrawn by the
host, and the model takes both by a free value; with no word presented there is no choice.
notes/assumptions/5.md. -/
def cmdAfterReset (withdrawn : Bool) (ws : List CmdWord) : List CmdWord :=
  match ws with
  | [] => []
  | w :: rest => if withdrawn then rest else w :: rest

/-- Whether the last command to leave `CMD` is without a response after a reset: it was so before; or the
`RANGE` in progress is abandoned (R177); or the presented word is withdrawn (R157). notes/assumptions/25.md. -/
def unansweredAfterReset (withdrawn : Bool) (s : State) : Bool :=
  s.unanswered || s.phase != .idle || (!s.cmd.isEmpty && withdrawn)

/-- The event `rst` (R175, R176): `inc = DEFAULT_INC`, `phase = IDLE`, `state` the open `RESET_STATE` of this
reset, all at once; a `RANGE` in progress is abandoned and no response is produced (R177). -/
def resetEvent (s : State) : State :=
  { s with
    state := Config.resetState s.resets
    inc := Config.defaultInc
    phase := .idle
    cmd := cmdAfterReset (Config.presentedWithdrawn s.resets) s.cmd
    unanswered := unansweredAfterReset (Config.presentedWithdrawn s.resets) s
    resets := s.resets + 1 }

/-- Present a word so that the next step accepts it: in front of what the host already presents, the
engine idle, no `rst` at the coming boundary. notes/assumptions/7.md. -/
def presentNow (w : CmdWord) (s : State) : State :=
  { s with
    phase := .idle
    cmd := w :: s.cmd
    rst := if rstRaised s then false :: s.rst.tail else s.rst }

end Sys2Proof.Machine
end

