-- ==== Sys2Proof/Machine/Step.lean ====
section
/-! DEFINITION. One step of the machine, and the placing of an instruction where the next step takes it. -/

namespace Sys2Proof.Machine

/-- One step. "`rst` takes effect between steps" and overrides everything else (spec/60_exceptions.md R157,
spec/70_reset_and_hazards.md R176); otherwise the engine steps. -/
def step (s : State) : Host.Outcome State Fault Refusal :=
  if rstRaised s then .next (resetEvent (passBoundary s)) else engineStep (passBoundary s)

/-- `s` with a table word presented on `CMD` so that the very next step accepts and runs it (R57).
notes/assumptions/7.md. -/
def State.withFetchWord (s : State) (nbits w : Nat) : State := presentNow (tableWord nbits w) s

end Sys2Proof.Machine
end

