-- ==== Sys2Proof/Machine/Engines.lean ====
section
/-!
DEFINITION. Several engines (spec/60_exceptions.md R171): any number of them, sharing no state. A system of
engines is the list of their states, and a step of it is one step of one engine. notes/assumptions/22.md.
-/

namespace Sys2Proof.Machine

/-- The engine at position `k` takes one step; the others keep their states. Where there is no engine at
`k` nothing steps. -/
def stepEngineAt (k : Nat) (es : List State) : Host.Outcome (List State) Fault Refusal :=
  match es[k]? with
  | none => .next es
  | some e =>
    match step e with
    | .next e' => .next (es.set k e')
    | .fault r => .fault r
    | .refused r => .refused r

end Sys2Proof.Machine
end

