-- ==== Sys2Proof/Machine/Run.lean ====
section
/-!
DEFINITION. Runs: a number of steps, and the steps until the host has its last response
(spec/70_reset_and_hazards.md R179).
-/

namespace Sys2Proof.Machine

/-- `n` steps, stopping at the first fault or refusal. -/
def runSteps : Nat → State → Host.Outcome State Fault Refusal
  | 0, s => .next s
  | n + 1, s =>
    match step s with
    | .next t => runSteps n t
    | .fault r => .fault r
    | .refused r => .refused r

/-- Step until the host has its last response (R179), within `fuel` steps; none when the fuel runs out, as it
does for a host whose last command a reset took away (D12), or the machine stops. notes/assumptions/16.md. -/
def runUntilOver : Nat → State → Option State
  | 0, s => if runOver s then some s else none
  | fuel + 1, s =>
    if runOver s then some s
    else
      match step s with
      | .next t => runUntilOver fuel t
      | .fault _ => none
      | .refused _ => none

end Sys2Proof.Machine
end

