-- ==== Sys2Proof/Machine/HostLayer.lean ====
section
/-!
DEFINITION. The host layer, software over the engine (spec/45_host_derived.md R130 to R144; spec/30_encoding.md
R72): each derived sampler is a check of its arguments, a finite sequence of engine commands fixed by the
arguments, and host arithmetic on the responses. Nothing here is hardware (R4).
notes/assumptions/13.md, 14.md, 15.md, 24.md.
-/

namespace Sys2Proof.Machine

/-- The host operations (R72). `i32` arguments are 32-bit words read as two's complement (R8). -/
inductive HostOp where
  /-- `NEW`: `t` is the value the host's time source gave, "a free input under no law" (R131). -/
  | newFromTime (t : U64)
  /-- `NEW_S s` (R132). -/
  | newState (s : U64)
  /-- `NEW_SS s, q` (R133). -/
  | newStateSequence (s q : U64)
  /-- `NEXT_I32` (R134). -/
  | nextI32
  /-- `NEXT_MAX max` (R135). -/
  | nextMax (max : U32)
  /-- `NEXT_MINMAX min, max` (R136). -/
  | nextMinMax (min max : U32)
  /-- `SAMPLE` (R137). -/
  | sample
  /-- `NEXT_DOUBLE` (R138). -/
  | nextDouble
  /-- `NEXT_BYTES n`, on the caller's buffer of `n` bytes (R141). -/
  | nextBytes (buf : List U8)
  /-- `TO_STRING` (R142). -/
  | debugText
  deriving DecidableEq, Repr

/-- What a host operation returns. -/
inductive HostValue where
  /-- A constructor returns a generator: the engine's two registers. -/
  | seeded
  /-- An `i32`. -/
  | i32 (v : U32)
  /-- An `f64`, as its binary64 word. -/
  | f64 (v : U64)
  /-- The caller's buffer after the call. -/
  | bytes (buf : List U8)
  | text (t : String)
  deriving DecidableEq, Repr

/-- What the host does with the arguments, before any command (R130). -/
inductive HostPlan where
  /-- The argument check fails: no command is issued (R130, R143). -/
  | fails (st : Status)
  /-- The value is known without a command. -/
  | returns (v : HostValue)
  /-- These commands are issued, back to back (R130). -/
  | issues (cs : List Instr)
  deriving DecidableEq, Repr

/-- How a host operation ends. -/
inductive HostReply where
  | value (v : HostValue)
  /-- A failure, in the "one code space" of R143: the engine's status or `InvalidBound`. -/
  | failed (code : U8)
  /-- The last command was answered and an earlier one was not, since a reset came (R177): "not answered". -/
  | unanswered
  deriving DecidableEq, Repr

/-! ### The arithmetic of the host -/

/-- `i32::MAX` (R134). -/
def i32Max : U32 := 0x7FFFFFFF#32

/-- `bound = (as_u32(max) - as_u32(min)) mod 2^32` (R136, D24). -/
def minMaxBound (min max : U32) : U32 := max - min

/-- `as_i32((v + as_u32(min)) mod 2^32)` (R136, D24). -/
def minMaxResult (min v : U32) : U32 := v + min

/-- `f64(r) * 2^-32` as a binary64 word (R137): the product is exact (R139), so the word is the one that
encodes `r / 2^32`: sign 0, exponent `log2 r - 32` with bias 1023, and the bits of `r` below its leading
one at the top of the 52-bit fraction. -/
def sampleWord (r : U32) : U64 :=
  if r = 0#32 then 0#64
  else
    BitVec.ofNat 64
      (2 ^ 52 * (1023 + Nat.log2 r.toNat - 32)
        + 2 ^ (52 - Nat.log2 r.toNat) * (r.toNat - 2 ^ Nat.log2 r.toNat))

/-- The number a binary64 word stands for; none for the infinities and NaNs. (The format is general
knowledge, R139, G5: notes/assumptions/14.md.) -/
def f64Value (w : U64) : Option Rat :=
  let sign : Rat := if w.toNat / 2 ^ 63 = 1 then -1 else 1
  let e := w.toNat / 2 ^ 52 % 2 ^ 11
  let f : Rat := ((w.toNat % 2 ^ 52 : Nat) : Rat) / 2 ^ 52
  if e = 2047 then none
  else if e = 0 then some (sign * f / 2 ^ 1022)
  else some (sign * (1 + f) * 2 ^ e / 2 ^ 1023)

/-- `bytes(r) = [r[7:0], r[15:8], r[23:16], r[31:24]]` (R140, R43). -/
def drawBytes (r : U32) : List U8 :=
  [r.extractLsb' 0 8, r.extractLsb' 8 8, r.extractLsb' 16 8, r.extractLsb' 24 8]

/-- Write bytes into a buffer at consecutive offsets (the `MemWrite` of R141). -/
def writeBytes (buf : List U8) (off : Nat) (bs : List U8) : List U8 :=
  buf.take off ++ bs ++ buf.drop (off + bs.length)

/-- The loop of R141, one draw an iteration: `k = min(4, n - off)` bytes of the draw are written at
`off`, the rest discarded, and `off` advances by `k`. -/
def fillBuffer : List U32 → Nat → List U8 → List U8
  | [], _, buf => buf
  | r :: rs, off, buf =>
    fillBuffer rs (off + min 4 (buf.length - off))
      (writeBytes buf off ((drawBytes r).take (min 4 (buf.length - off))))

/-- The number of draws for a buffer of `n` bytes, `ceil(n / 4)` (R141). -/
def drawsForBytes (n : Nat) : Nat := (n + 3) / 4

/-- The debug string (R142), each number in unsigned decimal (D19). -/
def debugString (s i : U64) : String :=
  "[PCG32 state: " ++ Nat.repr s.toNat ++ ", sequence: " ++ Nat.repr i.toNat ++ "]"

/-! ### The operations -/

/-- The checks and the commands of each operation (R131 to R142). -/
def hostPlan : HostOp → HostPlan
  | .newFromTime t => .issues [.seedState t]
  | .newState s => .issues [.seedState s]
  | .newStateSequence s q => .issues [.seed s q]
  | .nextI32 => .issues [.range i32Max]
  | .nextMax max =>
    if max.toInt < 0 then .fails .invalidBound
    else if max = 0#32 then .returns (.i32 0#32)
    else .issues [.range max]
  | .nextMinMax min max =>
    if min.toInt < max.toInt then .issues [.range (minMaxBound min max)]
    else .fails .invalidBound
  | .sample => .issues [.nextU32]
  | .nextDouble => .issues [.nextU32]
  | .nextBytes buf => .issues (List.replicate (drawsForBytes buf.length) .nextU32)
  | .debugText => .issues [.rdState, .rdInc]

/-- The host arithmetic of each operation on the `data` fields of its responses (R131 to R142). -/
def hostValue (op : HostOp) (data : List U64) : HostValue :=
  match op with
  | .newFromTime _ => .seeded
  | .newState _ => .seeded
  | .newStateSequence _ _ => .seeded
  | .nextI32 => .i32 (low32 (data.headD 0#64))
  | .nextMax _ => .i32 (low32 (data.headD 0#64))
  | .nextMinMax min _ => .i32 (minMaxResult min (low32 (data.headD 0#64)))
  | .sample => .f64 (sampleWord (low32 (data.headD 0#64)))
  | .nextDouble => .f64 (sampleWord (low32 (data.headD 0#64)))
  | .nextBytes buf => .bytes (fillBuffer (data.map low32) 0 buf)
  | .debugText => .text (debugString (data.headD 0#64) (data.tail.headD 0#64))

/-- The reply to an operation whose `n` commands were answered by `rs`: unanswered when a response is
missing (R177), failed with the first status that is not `OK` (R133), else the value. -/
def hostReply (op : HostOp) (n : Nat) (rs : List RspWord) : HostReply :=
  if rs.length ≠ n then .unanswered
  else
    match rs.find? (fun r => responseStatus r != statusCode .ok) with
    | some r => .failed (responseStatus r)
    | none => .value (hostValue op (rs.map responseData))

/-- A host operation on an engine (R130). A failed check issues no command and touches nothing; commands
are issued back to back as a script of their own, when no earlier command is presented or in progress (one
sequential host, R47, R180). A command that a reset took away earlier is treated as not answered (R177). -/
def hostRun (fuel : Nat) (op : HostOp) (s : State) : Option (HostReply × State) :=
  match hostPlan op with
  | .fails st => some (.failed (statusCode st), s)
  | .returns v => some (.value v, s)
  | .issues cs =>
    if channelFree s then
      match runUntilOver fuel (beginScript (cs.map encode) s) with
      | some t => some (hostReply op cs.length (t.rsp.drop s.rsp.length), t)
      | none => none
    else none

end Sys2Proof.Machine
end

