-- ==== Sys2Proof/Machine/Script.lean ====
section
/-!
DEFINITION. Command-script text: spec/30_encoding.md R71 (reading and writing the lines of a script, and writing
a response), and the names of R72. Texts are handled as lists of characters. notes/assumptions/19.md.
-/

namespace Sys2Proof.Machine

/-- The mnemonic of a command, in capitals (R61, R71). -/
def mnemonic : Instr → String
  | .seed _ _ => "SEED"
  | .seedState _ => "SEED_STATE"
  | .nextU32 => "NEXT_U32"
  | .range _ => "RANGE"
  | .rdState => "RD_STATE"
  | .rdInc => "RD_INC"

/-- The pseudo-instruction name of a host operation (R72). -/
def hostMnemonic : HostOp → String
  | .newFromTime _ => "NEW"
  | .newState _ => "NEW_S"
  | .newStateSequence _ _ => "NEW_SS"
  | .nextI32 => "NEXT_I32"
  | .nextMax _ => "NEXT_MAX"
  | .nextMinMax _ _ => "NEXT_MINMAX"
  | .sample => "SAMPLE"
  | .nextDouble => "NEXT_DOUBLE"
  | .nextBytes _ => "NEXT_BYTES"
  | .debugText => "TO_STRING"

/-! ### Numbers -/

/-- The value of a decimal or hexadecimal digit, by its code point; none for another character. -/
def digitValue (c : Char) : Option Nat :=
  if 48 ≤ c.toNat ∧ c.toNat ≤ 57 then some (c.toNat - 48)
  else if 65 ≤ c.toNat ∧ c.toNat ≤ 70 then some (c.toNat - 55)
  else if 97 ≤ c.toNat ∧ c.toNat ≤ 102 then some (c.toNat - 87)
  else none

/-- The digit of a value below 16, capitals as in the tables of the spec. -/
def digitChar (d : Nat) : Char :=
  if d < 10 then Char.ofNat (48 + d) else Char.ofNat (55 + d)

/-- The number that digits of a base spell after the value `acc`, most significant first (R44). -/
def readDigits (base : Nat) : Nat → List Char → Option Nat
  | acc, [] => some acc
  | acc, c :: cs =>
    match digitValue c with
    | some d => if d < base then readDigits base (acc * base + d) cs else none
    | none => none

/-- "numbers in decimal or `0x` hexadecimal" (R71); at least one digit. -/
def readNumber (cs : List Char) : Option Nat :=
  match cs with
  | [] => none
  | '0' :: 'x' :: [] => none
  | '0' :: 'x' :: ds => readDigits 16 0 ds
  | ds => readDigits 10 0 ds

/-- An operand of `w` bits: a number that does not fit is no operand (R69). -/
def readOperand (w : Nat) (cs : List Char) : Option (BitVec w) :=
  match readNumber cs with
  | some n => if n < 2 ^ w then some (BitVec.ofNat w n) else none
  | none => none

/-- The lowest `k` hexadecimal digits of a number, most significant first. -/
def hexDigits : Nat → Nat → List Char
  | 0, _ => []
  | k + 1, n => hexDigits k (n / 16) ++ [digitChar (n % 16)]

/-- A word of `4 k` bits in hexadecimal. -/
def hexNumber (k n : Nat) : List Char := '0' :: 'x' :: hexDigits k n

/-! ### Lines -/

/-- Space, tab and carriage return separate the parts of a line. -/
def isBlank (c : Char) : Bool := c == ' ' || c == '\t' || c == '\r'

/-- The text without the blanks at its two ends. -/
def trim (cs : List Char) : List Char :=
  ((cs.dropWhile isBlank).reverse.dropWhile isBlank).reverse

/-- The parts of a text between the occurrences of a separator. -/
def splitAt (sep : Char) : List Char → List (List Char)
  | [] => [[]]
  | c :: cs =>
    if c = sep then [] :: splitAt sep cs
    else
      match splitAt sep cs with
      | [] => [[c]]
      | p :: ps => (c :: p) :: ps

/-- A line without its comment: "`;` starts a comment to the end of the line" (R71), nor blanks at its
ends. -/
def lineBody (cs : List Char) : List Char := trim (cs.takeWhile (fun c => c != ';'))

/-- The mnemonic of a line body: its first word. -/
def lineWord (cs : List Char) : List Char := cs.takeWhile (fun c => !isBlank c)

/-- The operands of a line body: what follows its first word, "separated by a comma" (R71). -/
def lineOperands (cs : List Char) : List (List Char) :=
  match trim (cs.dropWhile (fun c => !isBlank c)) with
  | [] => []
  | ops => (splitAt ',' ops).map trim

/-- The command a mnemonic and its operands spell (R71); none for anything else. -/
def readCommand (word : List Char) (ops : List (List Char)) : Option Instr :=
  if word = "SEED".toList then
    match ops with
    | [a, b] =>
      match readOperand 64 a, readOperand 64 b with
      | some x, some y => some (.seed x y)
      | _, _ => none
    | _ => none
  else if word = "SEED_STATE".toList then
    match ops with
    | [a] => (readOperand 64 a).map .seedState
    | _ => none
  else if word = "NEXT_U32".toList then (if ops.isEmpty then some .nextU32 else none)
  else if word = "RANGE".toList then
    match ops with
    | [b] => (readOperand 32 b).map .range
    | _ => none
  else if word = "RD_STATE".toList then (if ops.isEmpty then some .rdState else none)
  else if word = "RD_INC".toList then (if ops.isEmpty then some .rdInc else none)
  else none

/-- The command one line of a script spells (R71). -/
def readLine (line : List Char) : Option Instr :=
  readCommand (lineWord (lineBody line)) (lineOperands (lineBody line))

/-- The commands of the lines of a script, in order; a line with nothing but blanks or a comment holds
none. -/
def readLines : List (List Char) → Option (List Instr)
  | [] => some []
  | l :: ls =>
    if lineBody l = [] then readLines ls
    else
      match readLine l, readLines ls with
      | some i, some is => some (i :: is)
      | _, _ => none

/-- A command script: "One command per line" (R71, R24). -/
def readScript (text : String) : Option (List Instr) := readLines (splitAt '\n' text.toList)

/-- The line that spells a command (R71). -/
def writeLine (i : Instr) : List Char :=
  match i with
  | .seed a b => (mnemonic i).toList ++ [' '] ++ hexNumber 16 a.toNat ++ [',', ' '] ++ hexNumber 16 b.toNat
  | .seedState a => (mnemonic i).toList ++ [' '] ++ hexNumber 16 a.toNat
  | .nextU32 => (mnemonic i).toList
  | .range b => (mnemonic i).toList ++ [' '] ++ hexNumber 8 b.toNat
  | .rdState => (mnemonic i).toList
  | .rdInc => (mnemonic i).toList

/-- The name of a status code (R67). -/
def statusName (st : Status) : String :=
  match st with
  | .ok => "OK"
  | .invalidSequence => "InvalidSequence"
  | .invalidBound => "InvalidBound"
  | .illegalCommand => "IllegalCommand"

/-- A response "is written `status:data` ... or by its status name alone when `data` is 0" (R71). -/
def writeResponse (st : Status) (data : U64) : String :=
  if data = 0#64 then statusName st
  else statusName st ++ ":" ++ String.ofList (hexNumber 16 data.toNat)

end Sys2Proof.Machine
end

