-- ==== Sys2Proof/Safety.lean ====
section
/-!
DEFINITION. What counts as a safe run: the invariant of spec/10_state.md R22, R23, R27 and
spec/30_encoding.md R67, R68, and a run that never stops.
-/

namespace Sys2Proof.Machine

/-- `inc[0] = 1` (R22 `ODD`, R23). -/
def incIsOdd (s : State) : Bool := s.inc.toNat % 2 == 1

/-- In `LOOP`, `bound_q` is 1 to `2^32 - 1` and `thr_q` its threshold (R27). -/
def latchesAgree (s : State) : Bool :=
  match s.phase with
  | .idle => true
  | .loop b t => b != 0#32 && t.toNat == (2 ^ 32 - b.toNat) % b.toNat

/-- A response the engine may produce: status `OK`, or `InvalidSequence` or `IllegalCommand` with `data` 0;
`InvalidBound` and the reserved codes "never" (R67, R68, R150). -/
def responseLegal (r : RspWord) : Bool :=
  responseStatus r == 0x00#8 ||
    ((responseStatus r == 0x01#8 || responseStatus r == 0x03#8) && responseData r == 0#64)

/-- The invariant of every reachable state (R23, R27, R67, R68). -/
def Inv (s : State) : Prop :=
  incIsOdd s = true ∧ latchesAgree s = true ∧ s.rsp.all responseLegal = true

/-- A run of `n` steps that meets no fault and no refusal. -/
def RunsSafely (n : Nat) (s : State) : Prop :=
  ∃ t, runSteps n s = .next t

end Sys2Proof.Machine
end

