-- ==== Sys2Proof/Certificates/Slice0/Obligations.lean ====
section
/-!
DEFINITION. The statements for the provers, in the order of the spec's files. Where a statement speaks of runs, the
hypothesis `∀ x ∈ s.rst, x = false` says that the environment raises no `rst` during them.
`rst`, `cmd`, `rsp`, `resets` and `unanswered` are the model's own form of the ports (notes/assumptions/1.md to 4.md, 25.md).
-/

open Sys2Proof Sys2Proof.Machine

/-! ### Reset (spec/10_state.md R31, spec/70_reset_and_hazards.md R175 to R177) -/

/-- R31: after reset `inc = DEFAULT_INC` and `phase = IDLE`; of `state` nothing is said, since the spec leaves it
open. -/
def Obligations.PowerOnLoadsDefaultIncrementAndIdles : Prop :=
  State.reset.inc = 0xDA3E39CB94B95BDB#64 ∧ State.reset.phase = .idle

/-- R175, R177: the event `rst`, in every phase: some `state`, `inc = DEFAULT_INC`, `phase = IDLE`, and no response,
so a `RANGE` in progress is never answered. The words on `CMD` stay or lose their head: the two-way choice of R157 and
U9, in the model's form (notes/assumptions/5.md, DESIGN CHOICE). The schedule, the counter and the host's note that its
last command is not answered are the model's own (notes/assumptions/3.md, 4.md, 25.md). -/
def Obligations.RstRestoresResetValuesWithoutAnswer : Prop :=
  ∀ s : State, rstRaised s = true →
    ∃ (v : U64) (withdrawn : Bool),
      step s = .next { s with
        state := v
        inc := 0xDA3E39CB94B95BDB#64
        phase := .idle
        cmd := if withdrawn then s.cmd.tail else s.cmd
        rst := s.rst.tail
        unanswered := s.unanswered || s.phase != .idle || (withdrawn && !s.cmd.isEmpty)
        resets := s.resets + 1 }

/-- R176, "Nothing the host can send on `CMD` causes a reset": in a step with no `rst`, `inc` stays and `state` stays or
advances, or an idle engine accepts a seeding command and both take its operands; `LOOP` ends only with one response;
and no reset is counted (the count is the model's own, notes/assumptions/4.md). -/
def Obligations.OnlyRstResets : Prop :=
  ∀ s t : State, rstRaised s = false → step s = .next t →
    ((t.inc = s.inc ∧ (t.state = s.state ∨ t.state = adv s.state s.inc)) ∨
      (s.phase = .idle ∧ ∃ w ws, s.cmd = w :: ws ∧
        ((decode w = .command (.seed t.state t.inc) ∧ t.inc.toNat % 2 = 1) ∨
          (decode w = .command (.seedState t.state) ∧ t.inc = 0xDA3E39CB94B95BDB#64)))) ∧
    (s.phase ≠ .idle → t.phase = .idle →
      t.state = adv s.state s.inc ∧ ∃ d, t.rsp = s.rsp ++ [responseWord .ok d]) ∧
    t.resets = s.resets

/-- 70_reset_and_hazards.md sections 1 and 2 (R177, R179) and D12: a run becomes over only in a step that brings a
response; and where a reset abandons a `RANGE`, or the host withdraws the last word, with nothing more presented, the
run is never over: the host waits for ever. The field `unanswered` is the model's (notes/assumptions/25.md). -/
def Obligations.RunIsOverOnlyOnReceipt : Prop :=
  (∀ s t : State, runOver s = false → step s = .next t → runOver t = true →
    rstRaised s = false ∧ t.phase = .idle ∧ t.cmd = [] ∧ ∃ r, t.rsp = s.rsp ++ [r]) ∧
  (∀ (n : Nat) (s t u : State), rstRaised s = true → step s = .next t → t.cmd = [] →
    (s.phase ≠ .idle ∨ s.cmd ≠ []) → runSteps n t = .next u →
    runOver u = false ∧ u.rsp = s.rsp)

/-! ### Seeding (spec/40_seed.md) -/

/-- R90, R92, R151: `SEED a, b` writes both registers when `b` is odd, and writes nothing when it is even. -/
def Obligations.SeedLoadsBothRegistersOrRejects : Prop :=
  ∀ (a b : U64) (s : State), s.phase = .idle →
    (b.toNat % 2 = 1 →
      exec (.seed a b) s = .next { s with
        state := a
        inc := b
        rsp := s.rsp ++ [responseWord .ok 0#64]
        unanswered := false }) ∧
    (b.toNat % 2 = 0 →
      exec (.seed a b) s = .next { s with
        rsp := s.rsp ++ [responseWord .invalidSequence 0#64]
        unanswered := false })

/-- R91: `SEED_STATE a` loads `state` and the default increment, "whatever inc held before". -/
def Obligations.SeedStateLoadsDefaultIncrement : Prop :=
  ∀ (a : U64) (s : State), s.phase = .idle →
    exec (.seedState a) s = .next { s with
      state := a
      inc := 0xDA3E39CB94B95BDB#64
      rsp := s.rsp ++ [responseWord .ok 0#64]
      unanswered := false }

/-- 40_seed.md, the sentence of R91 marked derived there: `SEED_STATE a` is `SEED a, DEFAULT_INC` in its effect. -/
def Obligations.SeedStateIsSeedWithTheDefaultIncrement : Prop :=
  ∀ (a : U64) (s : State), s.phase = .idle →
    exec (.seedState a) s = exec (.seed a 0xDA3E39CB94B95BDB#64) s

/-- R178, R1: whatever two idle engines held before, after the same accepted `SEED` and the same commands they have
answered the same and hold the same. -/
def Obligations.SeedingForgetsTheEarlierGenerator : Prop :=
  ∀ (n : Nat) (a b : U64) (ws : List CmdWord) (s1 s2 t1 t2 : State), b.toNat % 2 = 1 →
    s1.phase = .idle → s2.phase = .idle →
    s1.cmd = encode (.seed a b) :: ws → s2.cmd = encode (.seed a b) :: ws →
    (∀ x ∈ s1.rst, x = false) → (∀ x ∈ s2.rst, x = false) →
    runSteps (n + 1) s1 = .next t1 → runSteps (n + 1) s2 = .next t2 →
    t1.state = t2.state ∧ t1.inc = t2.inc ∧ t1.phase = t2.phase ∧ t1.cmd = t2.cmd ∧
      ∃ rs, t1.rsp = s1.rsp ++ rs ∧ t2.rsp = s2.rsp ++ rs

/-! ### The core step (spec/41_core_step.md) -/

/-- R100: the five steps of `NEXT_U32`, written out. (The product is written constant first.) -/
def Obligations.NextU32AnswersOldOutputAndAdvances : Prop :=
  ∀ s : State, s.phase = .idle →
    let old := s.state
    let xorshifted : U32 := ((old >>> 18 ^^^ old) >>> 27).setWidth 32
    let r := (old >>> 59).toNat
    let output : U32 := xorshifted >>> r ||| xorshifted <<< ((32 - r) % 32)
    exec .nextU32 s = .next { s with
      state := 6364136223846793005#64 * old + s.inc
      rsp := s.rsp ++ [responseWord .ok (output.setWidth 64)]
      unanswered := false }

/-- R101: the advance is exact arithmetic modulo `2^64`, reduced once at the end or after each operation. -/
def Obligations.AdvanceIsExactModulo : Prop :=
  ∀ s i : U64,
    (adv s i).toNat = (s.toNat * 6364136223846793005 + i.toNat) % 2 ^ 64 ∧
    (adv s i).toNat = (s.toNat * 6364136223846793005 % 2 ^ 64 + i.toNat) % 2 ^ 64

/-- R102, in exact arithmetic: the folded word `x`, the rotation amount `r`, and `x` rotated right by `r`. -/
def Obligations.OutputIsRotatedXorshift : Prop :=
  ∀ s : U64,
    let x := (s.toNat / 2 ^ 18 ^^^ s.toNat) / 2 ^ 27 % 2 ^ 32
    let r := s.toNat / 2 ^ 59
    r < 32 ∧ (out s).toNat = x / 2 ^ r + x % 2 ^ r * 2 ^ (32 - r)

/-- R103: the first draw after seeding with `a` outputs `out(a)`, whatever the sequence; given the old state the output
does not depend on `inc`, which enters only the new state. -/
def Obligations.OutputComesFromTheOldState : Prop :=
  (∀ (a b : U64) (s : State), s.phase = .idle → b.toNat % 2 = 1 →
    ∃ t u, exec (.seed a b) s = .next t ∧ exec .nextU32 t = .next u ∧
      u.rsp = s.rsp ++ [responseWord .ok 0#64, responseWord .ok ((out a).setWidth 64)] ∧
      u.state = adv a b ∧ u.inc = b) ∧
  (∀ (s : State) (v : U64), s.phase = .idle →
    ∃ t u, exec .nextU32 s = .next t ∧ exec .nextU32 { s with inc := v } = .next u ∧
      t.rsp = u.rsp ∧ (v ≠ s.inc → t.state ≠ u.state))

/-- 41_core_step.md section 3, R104 (marked derived there): which state bits reach the output; two different states
that agree from bit 27 up give the same output and different next states. -/
def Obligations.StateBitsThatReachTheOutput : Prop :=
  (∀ (s : U64) (k : Nat),
    (k ≤ 18 → (xsh s).getLsbD k = ((s.getLsbD (k + 27)).xor (s.getLsbD (k + 45)))) ∧
    (19 ≤ k → k ≤ 31 → (xsh s).getLsbD k = s.getLsbD (k + 27))) ∧
  (∀ s i s' : U64, (∀ j, 27 ≤ j → s.getLsbD j = s'.getLsbD j) →
    out s = out s' ∧ (s ≠ s' → adv s i ≠ adv s' i))

/-- 41_core_step.md section 3, R105 (marked derived there): the rotation, bit by bit; for a non-zero amount the two
shifted words have no bit in common. -/
def Obligations.RotationMovesEveryBit : Prop :=
  ∀ (x : U32) (r : Nat), r < 32 →
    (∀ k, k < 32 → (ror32 x r).getLsbD k = x.getLsbD ((k + r) % 32)) ∧
    ror32 x 0 = x ∧
    (r ≠ 0 → x >>> r &&& x <<< ((32 - r) % 32) = 0#32)

/-- 41_core_step.md section 5, R107 (c) (marked derived there): `n` consecutive draws. -/
def Obligations.ConsecutiveDrawsFollowTheRecurrence : Prop :=
  ∀ (n : Nat) (s : State) (ws : List CmdWord), s.phase = .idle → (∀ x ∈ s.rst, x = false) →
    s.cmd = List.replicate n (encode .nextU32) ++ ws →
    runSteps n s = .next { s with
      state := stateAfter s.state s.inc n
      cmd := ws
      rsp := s.rsp ++ (List.range n).map fun k =>
        responseWord .ok ((out (stateAfter s.state s.inc k)).setWidth 64)
      rst := s.rst.drop n
      unanswered := if n = 0 then s.unanswered else false }

/-- 41_core_step.md section 5, R107 (d) to (f) (marked derived there): three corner states. -/
def Obligations.CornerStatesDraw : Prop :=
  (∀ i : U64, out 0#64 = 0#32 ∧ adv 0#64 i = i) ∧
  out 0xFFFFFFFFFFFFFFFF#64 = 0xFFF00001#32 ∧ out 0x0400000000000000#64 = 0x80002000#32

/-- 41_core_step.md section 5, R108 (marked there as general knowledge): with an odd increment the recurrence visits
all `2^64` states before it repeats. -/
def Obligations.RecurrenceHasFullPeriod : Prop :=
  ∀ s i : U64, i.toNat % 2 = 1 →
    (∀ v : U64, ∃ n, n < 2 ^ 64 ∧ stateAfter s i n = v) ∧
    stateAfter s i (2 ^ 64) = s ∧
    (∀ n, 0 < n → n < 2 ^ 64 → stateAfter s i n ≠ s)

/-! ### The range reducer (spec/42_range.md) -/

/-- R113: accepting `RANGE b`; and in `LOOP` no command is accepted, which for exec is that the state stays as it is
(notes/assumptions/6.md, DEDUCED). -/
def Obligations.RangeIsAcceptedIntoTheLoop : Prop :=
  (∀ s : State, s.phase = .idle →
    exec (.range 0#32) s = .next { s with rsp := s.rsp ++ [responseWord .ok 0#64], unanswered := false }) ∧
  (∀ (b : U32) (s : State), s.phase = .idle → b ≠ 0#32 →
    ∃ t : U32, t.toNat = (2 ^ 32 - b.toNat) % b.toNat ∧
      exec (.range b) s = .next { s with phase := .loop b t }) ∧
  (∀ (i : Instr) (b t : U32) (s : State), s.phase = .loop b t → exec i s = .next s)

/-- R114, R115, R116: the micro-step, accepting or rejecting its draw. -/
def Obligations.MicroStepDrawsOnce : Prop :=
  ∀ (s : State) (b t : U32), s.phase = .loop b t → rstRaised s = false →
    (t.toNat ≤ (out s.state).toNat →
      step s = .next { s with
        state := adv s.state s.inc
        phase := .idle
        rsp := s.rsp ++ [responseWord .ok (BitVec.ofNat 64 ((out s.state).toNat % b.toNat))]
        rst := s.rst.tail
        unanswered := false }) ∧
    ((out s.state).toNat < t.toNat →
      step s = .next { s with state := adv s.state s.inc, rst := s.rst.tail })

/-- R120: every change of `phase`. -/
def Obligations.PhaseChangesOnlyAsTheReducerSays : Prop :=
  ∀ (s t : State), step s = .next t →
    (∀ b q, s.phase = .idle → t.phase = .loop b q →
      rstRaised s = false ∧ b ≠ 0#32 ∧ q = threshold b ∧
        ∃ w ws, s.cmd = w :: ws ∧ decode w = .command (.range b)) ∧
    (∀ b q b' q', s.phase = .loop b q → t.phase = .loop b' q' →
      rstRaised s = false ∧ (out s.state).toNat < q.toNat ∧ b' = b ∧ q' = q) ∧
    (∀ b q, s.phase = .loop b q → t.phase = .idle →
      rstRaised s = true ∨ q.toNat ≤ (out s.state).toNat)

/-- 42_range.md section 1, R111 (marked derived there): the forms of the threshold, and that the loop keeps it. -/
def Obligations.ThresholdHasThreeForms : Prop :=
  (∀ b : U32, b ≠ 0#32 →
    (threshold b).toNat = (2 ^ 32 - b.toNat) % b.toNat ∧
    (threshold b).toNat = 2 ^ 32 % b.toNat ∧
    threshold b = (0#32 - b) % b) ∧
  (∀ (s t : State) (b q : U32), s.phase = .loop b q → step s = .next t →
    t.phase = .idle ∨ t.phase = .loop b q)

/-- 42_range.md section 4, R119 (c), (e) to (i) (its bounds are marked derived there). -/
def Obligations.RangeIntegerLaws : Prop :=
  (∀ b r : U32, b ≠ 0#32 →
    (threshold b).toNat < b.toNat ∧
    (threshold b).toNat ≤ 2 ^ 32 - b.toNat ∧
    (threshold b).toNat < 2 ^ 31 ∧
    (threshold b).toNat ≤ (threshold 0x80000001#32).toNat ∧
    (reduce r b).toNat < b.toNat) ∧
  (∀ (k : Nat) (r : U32), k ≤ 31 →
    threshold (BitVec.ofNat 32 (2 ^ k)) = 0#32 ∧
    (reduce r (BitVec.ofNat 32 (2 ^ k))).toNat = r.toNat % 2 ^ k) ∧
  (∀ r : U32, reduce r 1#32 = 0#32 ∧
    (drawAccepted r (threshold 0xFFFFFFFF#32) = false ↔ r = 0#32) ∧
    (r ≠ 0xFFFFFFFF#32 → reduce r 0xFFFFFFFF#32 = r)) ∧
  reduce 0xFFFFFFFF#32 0xFFFFFFFF#32 = 0#32

/-- 42_range.md section 4, R119 (d) (marked derived there): each residue is the image of equally many accepted
draws. -/
def Obligations.EachResidueIsEquallyFrequent : Prop :=
  ∀ b c : U32, c.toNat < b.toNat →
    ((Finset.range (2 ^ 32)).filter fun n =>
        drawAccepted (BitVec.ofNat 32 n) (threshold b) = true ∧ reduce (BitVec.ofNat 32 n) b = c).card =
      (2 ^ 32 - (threshold b).toNat) / b.toNat ∧
    b.toNat ∣ 2 ^ 32 - (threshold b).toNat

/-- 42_range.md section 4, R119 (k) (marked derived there): thresholds of common bounds. -/
def Obligations.CommonThresholds : Prop :=
  threshold 2#32 = 0#32 ∧ threshold 3#32 = 1#32 ∧ threshold 5#32 = 1#32 ∧ threshold 6#32 = 4#32 ∧
  threshold 7#32 = 4#32 ∧ threshold 10#32 = 6#32 ∧ threshold 100#32 = 96#32 ∧
  threshold 0x7FFFFFFF#32 = 2#32 ∧ threshold 0x80000000#32 = 0#32 ∧ threshold 0x80000001#32 = 0x7FFFFFFF#32 ∧
  threshold 0xC0000000#32 = 0x40000000#32 ∧ threshold 0xFFFFFFFE#32 = 2#32 ∧ threshold 0xFFFFFFFF#32 = 1#32

/-- R112: `rng` is given by the least `n ≥ 1` whose draw is accepted, when that is within the fuel. The fuel is the
model's (notes/assumptions/16.md). -/
def Obligations.RngIsTheLeastAcceptedDraw : Prop :=
  ∀ (fuel : Nat) (s i : U64) (b : U32) (a : RngAnswer), b ≠ 0#32 →
    (rng fuel s i b = some a ↔
      1 ≤ a.draws ∧ a.draws ≤ fuel ∧
      (∀ k, k + 1 < a.draws → (out (stateAfter s i k)).toNat < (threshold b).toNat) ∧
      (threshold b).toNat ≤ (out (stateAfter s i (a.draws - 1))).toNat ∧
      a.result.toNat = (out (stateAfter s i (a.draws - 1))).toNat % b.toNat ∧
      a.final = stateAfter s i a.draws)

/-- 42_range.md section 2, R117 (marked derived there): the micro-steps of a `RANGE` give the answer of the command
level, in that many draws, and no response before it. The fuel of the command level is the model's own
(notes/assumptions/16.md). -/
def Obligations.MicroStepsAgreeWithCommandLevel : Prop :=
  ∀ (fuel : Nat) (s : State) (b : U32) (ws : List CmdWord) (a : RngAnswer), b ≠ 0#32 →
    s.phase = .idle → (∀ x ∈ s.rst, x = false) → s.cmd = encode (.range b) :: ws →
    rng fuel s.state s.inc b = some a →
    (∀ m, m < a.draws → runSteps (m + 1) s = .next { s with
      state := stateAfter s.state s.inc m
      phase := .loop b (threshold b)
      cmd := ws
      rst := s.rst.drop (m + 1) }) ∧
    runSteps (a.draws + 1) s = .next { s with
      state := a.final
      cmd := ws
      rsp := s.rsp ++ [responseWord .ok (a.result.setWidth 64)]
      rst := s.rst.drop (a.draws + 1)
      unanswered := false }

/-- 42_range.md section 3, R118 (b) (it rests on the period, marked there as general knowledge): every `RANGE` ends
within `2^64` draws when `inc` is odd, with one answer, below the bound when the bound is not zero. -/
def Obligations.EveryRangeEnds : Prop :=
  ∀ (s : State) (b : U32) (ws : List CmdWord),
    s.phase = .idle → s.inc.toNat % 2 = 1 → (∀ x ∈ s.rst, x = false) → s.cmd = encode (.range b) :: ws →
    ∃ (n : Nat) (d : U64) (t : State), n ≤ 2 ^ 64 + 1 ∧ runSteps n s = .next t ∧
      t.phase = .idle ∧ t.cmd = ws ∧ t.inc = s.inc ∧ t.rsp = s.rsp ++ [responseWord .ok d] ∧
      (b = 0#32 → d = 0#64) ∧ (b ≠ 0#32 → d.toNat < b.toNat)

/-! ### Read-out (spec/43_inspect.md) -/

/-- R125: `RD_STATE` answers `state` and writes nothing. -/
def Obligations.RdStateAnswersState : Prop :=
  ∀ s : State, s.phase = .idle →
    exec .rdState s = .next { s with rsp := s.rsp ++ [responseWord .ok s.state], unanswered := false }

/-- R126: `RD_INC` answers `inc` and writes nothing; in a state of the invariant the answer is odd. -/
def Obligations.RdIncAnswersInc : Prop :=
  ∀ s : State, s.phase = .idle →
    exec .rdInc s = .next { s with rsp := s.rsp ++ [responseWord .ok s.inc], unanswered := false } ∧
    (Inv s → (responseWord .ok s.inc).getLsbD 0 = true)

/-- 43_inspect.md, R127 (marked derived there), and R48: any number of read-outs leaves `state`, `inc` and `phase` as
they were, each answering its register. -/
def Obligations.ReadOutsHaveNoSideEffect : Prop :=
  ∀ (is : List Instr) (s : State) (ws : List CmdWord), (∀ i ∈ is, i = .rdState ∨ i = .rdInc) →
    s.phase = .idle → (∀ x ∈ s.rst, x = false) → s.cmd = is.map encode ++ ws →
    runSteps is.length s = .next { s with
      cmd := ws
      rsp := s.rsp ++ is.map fun i => responseWord .ok (if i = .rdState then s.state else s.inc)
      rst := s.rst.drop is.length
      unanswered := if is = [] then s.unanswered else false }

/-- 10_state.md section 8, R30 (marked derived there): reading both registers of one engine and seeding another with
them makes the second equal to the first. -/
def Obligations.ForkByReadingAndSeeding : Prop :=
  ∀ a b : State, a.phase = .idle → b.phase = .idle → a.inc.toNat % 2 = 1 →
    ∃ a1 a2 b1 x y, exec .rdState a = .next a1 ∧ exec .rdInc a1 = .next a2 ∧
      a2.rsp = a.rsp ++ [x, y] ∧
      exec (.seed (responseData x) (responseData y)) b = .next b1 ∧
      b1.state = a2.state ∧ b1.inc = a2.inc ∧ b1.phase = a2.phase ∧ a2.state = a.state ∧ a2.inc = a.inc

/-! ### Words (spec/30_encoding.md, spec/20_memory.md R44) -/

/-- R60: "As a number, a command word is `op * 2^128 + A * 2^64 + B`", and its fields are those. -/
def Obligations.CommandWordIsItsThreeFields : Prop :=
  ∀ f : Fields,
    (packFields f).toNat = f.op.toNat * 2 ^ 128 + f.a.toNat * 2 ^ 64 + f.b.toNat ∧
    (packFields f).extractLsb' 128 8 = f.op ∧ (packFields f).extractLsb' 64 64 = f.a ∧
    (packFields f).extractLsb' 0 64 = f.b

/-- R66: `respond(status, data)` produces `status * 2^64 + data`; with the four codes of R67. -/
def Obligations.ResponseWordIsStatusAndData : Prop :=
  (∀ (st : Status) (d : U64),
    (responseWord st d).toNat = (statusCode st).toNat * 2 ^ 64 + d.toNat ∧
    responseStatus (responseWord st d) = statusCode st ∧ responseData (responseWord st d) = d) ∧
  statusCode .ok = 0x00#8 ∧ statusCode .invalidSequence = 0x01#8 ∧ statusCode .invalidBound = 0x02#8 ∧
  statusCode .illegalCommand = 0x03#8

/-- R62: the six rows, each selecting its command and no other row's word. -/
def Obligations.DecodeTableRowsSelectTheirCommands : Prop :=
  (∀ w : CmdWord,
    (w &&& 0xFF00000000000000000000000000000000#136 = 0x0100000000000000000000000000000000#136 ↔
      decode w = .command (.seed (w.extractLsb' 64 64) (w.extractLsb' 0 64))) ∧
    (w &&& 0xFF0000000000000000FFFFFFFFFFFFFFFF#136 = 0x0200000000000000000000000000000000#136 ↔
      decode w = .command (.seedState (w.extractLsb' 64 64))) ∧
    (w &&& 0xFFFFFFFFFFFFFFFFFFFFFFFFFFFFFFFFFF#136 = 0x0300000000000000000000000000000000#136 ↔
      decode w = .command .nextU32) ∧
    (w &&& 0xFFFFFFFFFFFFFFFFFFFFFFFFFF00000000#136 = 0x0400000000000000000000000000000000#136 ↔
      decode w = .command (.range (w.extractLsb' 0 32))) ∧
    (w &&& 0xFFFFFFFFFFFFFFFFFFFFFFFFFFFFFFFFFF#136 = 0x0500000000000000000000000000000000#136 ↔
      decode w = .command .rdState) ∧
    (w &&& 0xFFFFFFFFFFFFFFFFFFFFFFFFFFFFFFFFFF#136 = 0x0600000000000000000000000000000000#136 ↔
      decode w = .command .rdInc)) ∧
  opcodeRows.Pairwise fun r q => ∀ w, ¬ (selects r w = true ∧ selects q w = true)

/-- R63, R65, R152: exactly which words are illegal, by their fields, and that such a word is answered
`IllegalCommand` with nothing changed. -/
def Obligations.IllegalWordsAreAnsweredAndChangeNothing : Prop :=
  ∀ w : CmdWord,
    let op := w.toNat / 2 ^ 128
    let a := w.toNat / 2 ^ 64 % 2 ^ 64
    let b := w.toNat % 2 ^ 64
    ((∃ why, decode w = .illegal why) ↔
      op = 0 ∨ 7 ≤ op ∨ (op = 2 ∧ b ≠ 0) ∨ (op = 4 ∧ (a ≠ 0 ∨ 2 ^ 32 ≤ b)) ∨
        ((op = 3 ∨ op = 5 ∨ op = 6) ∧ (a ≠ 0 ∨ b ≠ 0))) ∧
    (∀ (why : Illegal) (s : State) (ws : List CmdWord), decode w = .illegal why →
      s.phase = .idle → rstRaised s = false → s.cmd = w :: ws →
      step s = .next { s with
        cmd := ws
        rsp := s.rsp ++ [responseWord .illegalCommand 0#64]
        rst := s.rst.tail
        unanswered := false })

/-- 30_encoding.md sections 2 and 3, D5: decoding the word of a command gives the command back, every operand at every
value. -/
def Obligations.DecodeOfEncodeIsTheCommand : Prop :=
  ∀ i : Instr, i.wf = true → decode (encode i) = .command i

/-- D5, "each command has exactly one spelling": the word of a decoded command is the decoded word. -/
def Obligations.EncodeOfDecodeIsTheWord : Prop :=
  ∀ (w : CmdWord) (i : Instr), decode w = .command i → encode i = w

/-- 20_memory.md section 2 and 30_encoding.md section 7: a stored command is 17 bytes, the lowest bits first, and
decoding them leaves the bytes after them. -/
def Obligations.StoredCommandIsReadBack : Prop :=
  ∀ (i : Instr) (rest : List U8),
    (encodeBytes i).length = 17 ∧
    bytesNat (encodeBytes i) = (encode i).toNat ∧
    decodeBytes (encodeBytes i ++ rest) = .command i rest

/-- Words written out from R62 and from the vectors of 95_test_vectors.md, decoded. -/
def Obligations.WrittenOutWordsDecode : Prop :=
  decode 0x01000000000000002A0000000000000005#136 = .command (.seed 42#64 5#64) ∧
  decode 0x02000000000000002A0000000000000000#136 = .command (.seedState 42#64) ∧
  decode 0x0300000000000000000000000000000000#136 = .command .nextU32 ∧
  decode 0x04000000000000000000000000FFFFFFFF#136 = .command (.range 0xFFFFFFFF#32) ∧
  decode 0x0500000000000000000000000000000000#136 = .command .rdState ∧
  decode 0x0600000000000000000000000000000000#136 = .command .rdInc ∧
  decode 0x0400000000000000000000000100000000#136 = .illegal .mustBeZero ∧
  decode 0x0700000000000000000000000000000000#136 = .illegal .undefinedOpcode

/-! ### The step (spec/20_memory.md R47, R51; spec/30_encoding.md R57, R75; spec/60_exceptions.md) -/

/-- 30_encoding.md sections 1 and 2: with no `rst`, an idle engine runs the command on `CMD` and consumes its word. -/
def Obligations.StepRunsTheDecodedCommand : Prop :=
  ∀ (s : State) (w : CmdWord) (ws : List CmdWord) (i : Instr), rstRaised s = false → s.phase = .idle →
    s.cmd = w :: ws → decode w = .command i →
    step s = exec i { s with cmd := ws, rst := s.rst.tail }

/-- The same through the table's numbering of a word's bits (30_encoding.md section 7) and its stored bytes
(20_memory.md section 2). Placing a word with `withFetchWord`, and how a table word is read, are the model's own choice
(notes/assumptions/7.md, 17.md, DESIGN CHOICE). -/
def Obligations.StepRunsAPlacedTableWord : Prop :=
  ∀ (s : State) (nbits w : Nat) (i : Instr), decodeTableWord nbits w = some i →
    step (s.withFetchWord nbits w) = exec i { s with phase := .idle, rst := s.rst.tail }

/-- 60_exceptions.md section 6 (R173): an idle engine with nothing presented "simply does nothing". -/
def Obligations.IdleEngineWithNothingPresentedKeepsItsState : Prop :=
  ∀ s : State, rstRaised s = false → s.phase = .idle → s.cmd = [] →
    step s = .next { s with rst := s.rst.tail }

/-- 30_encoding.md section 1 (R57): in `LOOP` the words on `CMD` are not lost, not reordered and not examined. -/
def Obligations.CommandsWaitUnexaminedInTheLoop : Prop :=
  ∀ (s t : State) (b q : U32) (ws : List CmdWord), s.phase = .loop b q → rstRaised s = false →
    step s = .next t → t.cmd = s.cmd ∧ step { s with cmd := ws } = .next { t with cmd := ws }

/-- 30_encoding.md section 8 (R75) and 20_memory.md section 6 (R51): without a reset each accepted command is answered
exactly once, in order; a `RANGE` in progress owes one answer. -/
def Obligations.ExactlyOneAnswerPerCommand : Prop :=
  ∀ (n : Nat) (s t : State), (∀ x ∈ s.rst, x = false) → runSteps n s = .next t →
    t.rsp.length + t.cmd.length + (if t.phase = .idle then 0 else 1) =
      s.rsp.length + s.cmd.length + (if s.phase = .idle then 0 else 1) ∧
    s.rsp <+: t.rsp ∧ t.cmd <:+ s.cmd

/-- 10_state.md section 8, R29 (marked derived there): equal engines given the same commands answer the same and stay
equal; what was answered before and how many resets there were have no influence. -/
def Obligations.EqualEnginesAnswerEqually : Prop :=
  ∀ (n : Nat) (s1 s2 t1 t2 : State),
    s1.state = s2.state → s1.inc = s2.inc → s1.phase = s2.phase → s1.cmd = s2.cmd →
    (∀ x ∈ s1.rst, x = false) → (∀ x ∈ s2.rst, x = false) →
    runSteps n s1 = .next t1 → runSteps n s2 = .next t2 →
    t1.state = t2.state ∧ t1.inc = t2.inc ∧ t1.phase = t2.phase ∧ t1.cmd = t2.cmd ∧
      ∃ rs, t1.rsp = s1.rsp ++ rs ∧ t2.rsp = s2.rsp ++ rs

/-- 10_state.md section 10 (R32): the frame of every command. A command touches no port but `RSP`; `inc` is written by
the seeding commands only, `state` by them and `NEXT_U32`, `phase` by an accepted `RANGE` with a non-zero bound; a
response that is not `OK` goes with no write at all. -/
def Obligations.CommandsWriteOnlyWhatTheAccessTableSays : Prop :=
  ∀ (i : Instr) (s t : State), exec i s = .next t →
    t.cmd = s.cmd ∧ t.rst = s.rst ∧ t.resets = s.resets ∧
    ((t.rsp = s.rsp ∧ t.unanswered = s.unanswered) ∨ ∃ r, t.rsp = s.rsp ++ [r] ∧ t.unanswered = false) ∧
    ((∀ a b, i ≠ .seed a b) → (∀ a, i ≠ .seedState a) → t.inc = s.inc) ∧
    ((∀ a b, i ≠ .seed a b) → (∀ a, i ≠ .seedState a) → i ≠ .nextU32 → t.state = s.state) ∧
    ((∀ b, b ≠ 0#32 → i ≠ .range b) → t.phase = s.phase) ∧
    (∀ r, t.rsp = s.rsp ++ [r] → responseStatus r ≠ 0x00#8 →
      t = { s with rsp := s.rsp ++ [r], unanswered := false })

/-- 10_state.md section 2 (R22, R23): over all steps, `inc` changes only by a seeding command or a reset. -/
def Obligations.OnlySeedingAndResetWriteInc : Prop :=
  ∀ s t : State, step s = .next t → t.inc ≠ s.inc →
    rstRaised s = true ∨
    (s.phase = .idle ∧ ∃ w ws, s.cmd = w :: ws ∧
      ((∃ a b, decode w = .command (.seed a b) ∧ b.toNat % 2 = 1) ∨ ∃ a, decode w = .command (.seedState a)))

/-- The invariant holds after reset, whatever `RESET_STATE` is: 10_state.md section 2 (R23). -/
def Obligations.InvariantAtReset : Prop :=
  ∀ v : U64, Inv { State.reset with state := v }

/-- Every step keeps the invariant: `inc` odd (R23), the latches in agreement in `LOOP` (R27), every response one the
engine may produce, `InvalidBound` and reserved codes never (R67, R68). -/
def Obligations.EveryStepKeepsTheInvariant : Prop :=
  ∀ s t : State, Inv s → step s = .next t → Inv t

/-- 60_exceptions.md sections 1 and 4 (R154, R158): no word, no phase and no reset ever stops the engine. -/
def Obligations.EngineNeverStops : Prop :=
  ∀ (n : Nat) (s : State), RunsSafely n s

/-- 60_exceptions.md section 6 (R171): a step of one engine leaves every other engine as it was. The list form is the
model's (notes/assumptions/22.md). -/
def Obligations.EnginesShareNothing : Prop :=
  ∀ (k : Nat) (es es' : List State), stepEngineAt k es = .next es' →
    es'.length = es.length ∧ (∀ j, j ≠ k → es'[j]? = es[j]?) ∧
    (∀ e, es[k]? = some e → ∃ e', step e = .next e' ∧ es'[k]? = some e')

/-! ### The host layer (spec/45_host_derived.md); its form is the model's (notes/assumptions/13.md) -/

/-- Section 2 (R131 to R133): the three constructors on an engine whose channel is free. -/
def Obligations.ConstructorsSeedTheEngine : Prop :=
  ∀ (v q : U64) (s : State), channelFree s = true → (∀ x ∈ s.rst, x = false) →
    (∃ t, hostRun 1 (.newFromTime v) s = some (.value .seeded, t) ∧
      t.state = v ∧ t.inc = 0xDA3E39CB94B95BDB#64 ∧ runOver t = true) ∧
    (∃ t, hostRun 1 (.newState v) s = some (.value .seeded, t) ∧
      t.state = v ∧ t.inc = 0xDA3E39CB94B95BDB#64 ∧ runOver t = true) ∧
    (q.toNat % 2 = 1 → ∃ t, hostRun 1 (.newStateSequence v q) s = some (.value .seeded, t) ∧
      t.state = v ∧ t.inc = q ∧ runOver t = true) ∧
    (q.toNat % 2 = 0 → ∃ t, hostRun 1 (.newStateSequence v q) s = some (.failed 0x01#8, t) ∧
      t.state = s.state ∧ t.inc = s.inc ∧ runOver t = true)

/-- Sections 1 and 7 (R130, R143): which calls fail with `InvalidBound`, and that a failing call issues nothing and
touches nothing. -/
def Obligations.InvalidBoundIssuesNoCommand : Prop :=
  ∀ (op : HostOp) (st : Status),
    (hostPlan op = .fails st ↔
      st = .invalidBound ∧
        ((∃ m, op = .nextMax m ∧ m.toInt < 0) ∨ ∃ a b, op = .nextMinMax a b ∧ b.toInt ≤ a.toInt)) ∧
    (hostPlan op = .fails st → ∀ (fuel : Nat) (s : State), hostRun fuel op s = some (.failed 0x02#8, s))

/-- Section 3 (R134 to R136): the signed samplers answer from the range reducer's result, in their ranges. -/
def Obligations.SignedSamplersAnswerInRange : Prop :=
  ∀ (fuel : Nat) (s : State), channelFree s = true → (∀ x ∈ s.rst, x = false) →
    (∀ a, rng fuel s.state s.inc 0x7FFFFFFF#32 = some a →
      ∃ t, hostRun (fuel + 1) .nextI32 s = some (.value (.i32 a.result), t) ∧ t.state = a.final ∧
        0 ≤ a.result.toInt ∧ a.result.toInt < 2 ^ 31 - 1) ∧
    (∀ m a, 0 < m.toInt → rng fuel s.state s.inc m = some a →
      ∃ t, hostRun (fuel + 1) (.nextMax m) s = some (.value (.i32 a.result), t) ∧ t.state = a.final ∧
        0 ≤ a.result.toInt ∧ a.result.toInt < m.toInt) ∧
    hostRun fuel (.nextMax 0#32) s = some (.value (.i32 0#32), s) ∧
    (∀ lo hi b a, lo.toInt < hi.toInt → (b.toNat : Int) = hi.toInt - lo.toInt →
      rng fuel s.state s.inc b = some a →
      ∃ v t, hostRun (fuel + 1) (.nextMinMax lo hi) s = some (.value (.i32 v), t) ∧ t.state = a.final ∧
        v.toInt = a.result.toNat + lo.toInt ∧ lo.toInt ≤ v.toInt ∧ v.toInt < hi.toInt)

/-- Section 4 (R137, R138): `SAMPLE` and `NEXT_DOUBLE` make one draw and answer the binary64 word of `r * 2^-32`. That an
`f64` is such a word is marked as general knowledge in R139 (notes/assumptions/14.md, PRESUMED). -/
def Obligations.SampleDrawsOnce : Prop :=
  ∀ s : State, channelFree s = true → (∀ x ∈ s.rst, x = false) →
    ∃ t, hostRun 1 .sample s = some (.value (.f64 (sampleWord (out s.state))), t) ∧
      t.state = adv s.state s.inc ∧ t.inc = s.inc ∧
      hostRun 1 .nextDouble s = hostRun 1 .sample s

/-- Section 4, R139 (the binary64 format is marked there as general knowledge; notes/assumptions/14.md): the value is
exactly `r / 2^32`, so in `[0, 1)`, and different draws give different words. -/
def Obligations.SampleIsExact : Prop :=
  ∀ r : U32,
    f64Value (sampleWord r) = some ((r.toNat : Rat) / 2 ^ 32) ∧
    (0 : Rat) ≤ (r.toNat : Rat) / 2 ^ 32 ∧ (r.toNat : Rat) / 2 ^ 32 < 1 ∧
    ∀ r', sampleWord r = sampleWord r' → r = r'

/-- Section 5 (R140, R141): `NEXT_BYTES` on a buffer of `n` bytes makes `ceil(n / 4)` draws and fills byte `m` with byte
`m mod 4` of draw `m / 4`; nothing is written outside the buffer. -/
def Obligations.NextBytesFillsTheBuffer : Prop :=
  ∀ (buf : List U8) (s : State), channelFree s = true → (∀ x ∈ s.rst, x = false) →
    ∃ buf' t, hostRun ((buf.length + 3) / 4) (.nextBytes buf) s = some (.value (.bytes buf'), t) ∧
      buf'.length = buf.length ∧
      t.state = stateAfter s.state s.inc ((buf.length + 3) / 4) ∧ t.inc = s.inc ∧
      ∀ m, m < buf.length →
        buf'[m]? = some ((out (stateAfter s.state s.inc (m / 4))).extractLsb' (8 * (m % 4)) 8)

/-- Section 6 (R142, D19): the debug string, with no draw and no change. -/
def Obligations.DebugTextShowsBothRegisters : Prop :=
  ∀ s : State, channelFree s = true → (∀ x ∈ s.rst, x = false) →
    ∃ t, hostRun 2 .debugText s =
        some (.value (.text ("[PCG32 state: " ++ Nat.repr s.state.toNat ++ ", sequence: " ++
          Nat.repr s.inc.toNat ++ "]")), t) ∧
      t.state = s.state ∧ t.inc = s.inc ∧ t.phase = s.phase

/-- 30_encoding.md section 6 (R71; the free points of the text are notes/assumptions/19.md): the line written for a
command is read back as that command. -/
def Obligations.ScriptLineIsReadBack : Prop :=
  ∀ i : Instr, readLine (writeLine i) = some i
end

