-- ==== Sys2Proof/Laws/Decode.lean ====
section
/-!
SUPPORT. The bits and the fields of a packed word (spec/30_encoding.md R60).
-/

namespace Sys2Proof

/-- Every bit of a packed word comes from one field. -/
theorem packFields_getLsbD (f : Fields) (i : Nat) :
    (packFields f).getLsbD i =
      if i < 64 then f.b.getLsbD i
      else if i < 128 then f.a.getLsbD (i - 64)
      else f.op.getLsbD (i - 128) := by
  have h : (packFields f).getLsbD i = BitVec.getLsbD (w := 8 + 64 + 64) (f.op ++ f.a ++ f.b) i := rfl
  rw [h, BitVec.getLsbD_append, BitVec.getLsbD_append]
  by_cases h1 : i < 64
  · simp [h1]
  · have e1 : (i - 64 < 64) = (i < 128) := by
      apply propext
      omega
    have e2 : i - 64 - 64 = i - 128 := by omega
    simp only [h1, e1, e2, if_false]

@[simp] theorem wordOp_packFields (f : Fields) : wordOp (packFields f) = f.op := by
  apply BitVec.eq_of_getLsbD_eq
  intro i hi
  have h1 : ¬ (128 + i < 64) := by omega
  have h2 : ¬ (128 + i < 128) := by omega
  rw [wordOp, BitVec.getLsbD_extractLsb', packFields_getLsbD]
  simp [hi, h1, h2]

@[simp] theorem wordA_packFields (f : Fields) : wordA (packFields f) = f.a := by
  apply BitVec.eq_of_getLsbD_eq
  intro i hi
  have h1 : ¬ (64 + i < 64) := by omega
  have h2 : 64 + i < 128 := by omega
  rw [wordA, BitVec.getLsbD_extractLsb', packFields_getLsbD]
  simp [hi, h1, h2]

@[simp] theorem wordB_packFields (f : Fields) : wordB (packFields f) = f.b := by
  apply BitVec.eq_of_getLsbD_eq
  intro i hi
  rw [wordB, BitVec.getLsbD_extractLsb', packFields_getLsbD]
  simp [hi]

/-- Splitting a packed word gives its fields back. -/
@[simp] theorem fieldsOf_packFields (f : Fields) : fieldsOf (packFields f) = f := by
  simp [fieldsOf]

/-- Packing the fields of a word gives the word back: format `C` has no other bit. -/
@[simp] theorem packFields_fieldsOf (w : CmdWord) : packFields (fieldsOf w) = w := by
  apply BitVec.eq_of_getLsbD_eq
  intro i hi
  rw [packFields_getLsbD]
  simp only [fieldsOf, wordOp, wordA, wordB, BitVec.getLsbD_extractLsb']
  split
  · simp [*]
  · split
    · have h1 : i - 64 < 64 := by omega
      have e : 64 + (i - 64) = i := by omega
      simp [h1, e]
    · have h1 : i - 128 < 8 := by omega
      have e : 128 + (i - 128) = i := by omega
      simp [h1, e]

/-- Packing is injective. -/
theorem packFields_inj {f g : Fields} : packFields f = packFields g ↔ f = g :=
  ⟨fun h => by rw [← fieldsOf_packFields f, h, fieldsOf_packFields], fun h => by rw [h]⟩

/-- Masking a word masks each field. -/
theorem packFields_and (f g : Fields) :
    packFields f &&& packFields g = packFields ⟨f.op &&& g.op, f.a &&& g.a, f.b &&& g.b⟩ := by
  apply BitVec.eq_of_getLsbD_eq
  intro i hi
  rw [BitVec.getLsbD_and, packFields_getLsbD, packFields_getLsbD, packFields_getLsbD]
  by_cases h1 : i < 64
  · simp [h1]
  · by_cases h2 : i < 128 <;> simp [h1, h2]

/-- A row with the given fields of mask and pattern selects a word by its fields. -/
theorem selects_iff_fields {r : Row} {m p : Fields} (hm : r.mask = packFields m) (hp : r.pattern = packFields p)
    (w : CmdWord) :
    selects r w = true ↔ wordOp w &&& m.op = p.op ∧ wordA w &&& m.a = p.a ∧ wordB w &&& m.b = p.b := by
  rw [selects, beq_iff_eq, hm, hp, ← packFields_fieldsOf w, packFields_and, packFields_inj, Fields.mk.injEq]
  simp [fieldsOf]

end Sys2Proof
end

