-- ==== Sys2Proof/Laws/State.lean ====
section
/-!
SUPPORT. What each named update of the state leaves in each field, true by unfolding. Later proofs cite these
and never unfold a record update.
-/

namespace Sys2Proof.Machine

variable (s : State)

/-! ### writeState -/

@[simp] theorem writeState_state (v : U64) : (writeState v s).state = v := rfl
@[simp] theorem writeState_inc (v : U64) : (writeState v s).inc = s.inc := rfl
@[simp] theorem writeState_phase (v : U64) : (writeState v s).phase = s.phase := rfl
@[simp] theorem writeState_cmd (v : U64) : (writeState v s).cmd = s.cmd := rfl
@[simp] theorem writeState_rsp (v : U64) : (writeState v s).rsp = s.rsp := rfl
@[simp] theorem writeState_rst (v : U64) : (writeState v s).rst = s.rst := rfl
@[simp] theorem writeState_unanswered (v : U64) : (writeState v s).unanswered = s.unanswered := rfl
@[simp] theorem writeState_resets (v : U64) : (writeState v s).resets = s.resets := rfl

/-! ### writeInc -/

@[simp] theorem writeInc_state (v : U64) : (writeInc v s).state = s.state := rfl
@[simp] theorem writeInc_inc (v : U64) : (writeInc v s).inc = v := rfl
@[simp] theorem writeInc_phase (v : U64) : (writeInc v s).phase = s.phase := rfl
@[simp] theorem writeInc_cmd (v : U64) : (writeInc v s).cmd = s.cmd := rfl
@[simp] theorem writeInc_rsp (v : U64) : (writeInc v s).rsp = s.rsp := rfl
@[simp] theorem writeInc_rst (v : U64) : (writeInc v s).rst = s.rst := rfl
@[simp] theorem writeInc_unanswered (v : U64) : (writeInc v s).unanswered = s.unanswered := rfl
@[simp] theorem writeInc_resets (v : U64) : (writeInc v s).resets = s.resets := rfl

/-! ### writePhase -/

@[simp] theorem writePhase_state (p : Phase) : (writePhase p s).state = s.state := rfl
@[simp] theorem writePhase_inc (p : Phase) : (writePhase p s).inc = s.inc := rfl
@[simp] theorem writePhase_phase (p : Phase) : (writePhase p s).phase = p := rfl
@[simp] theorem writePhase_cmd (p : Phase) : (writePhase p s).cmd = s.cmd := rfl
@[simp] theorem writePhase_rsp (p : Phase) : (writePhase p s).rsp = s.rsp := rfl
@[simp] theorem writePhase_rst (p : Phase) : (writePhase p s).rst = s.rst := rfl
@[simp] theorem writePhase_unanswered (p : Phase) : (writePhase p s).unanswered = s.unanswered := rfl
@[simp] theorem writePhase_resets (p : Phase) : (writePhase p s).resets = s.resets := rfl

/-! ### writeCmd -/

@[simp] theorem writeCmd_state (ws : List CmdWord) : (writeCmd ws s).state = s.state := rfl
@[simp] theorem writeCmd_inc (ws : List CmdWord) : (writeCmd ws s).inc = s.inc := rfl
@[simp] theorem writeCmd_phase (ws : List CmdWord) : (writeCmd ws s).phase = s.phase := rfl
@[simp] theorem writeCmd_cmd (ws : List CmdWord) : (writeCmd ws s).cmd = ws := rfl
@[simp] theorem writeCmd_rsp (ws : List CmdWord) : (writeCmd ws s).rsp = s.rsp := rfl
@[simp] theorem writeCmd_rst (ws : List CmdWord) : (writeCmd ws s).rst = s.rst := rfl
@[simp] theorem writeCmd_unanswered (ws : List CmdWord) : (writeCmd ws s).unanswered = s.unanswered := rfl
@[simp] theorem writeCmd_resets (ws : List CmdWord) : (writeCmd ws s).resets = s.resets := rfl

/-! ### sendResponse -/

@[simp] theorem sendResponse_state (r : RspWord) : (sendResponse r s).state = s.state := rfl
@[simp] theorem sendResponse_inc (r : RspWord) : (sendResponse r s).inc = s.inc := rfl
@[simp] theorem sendResponse_phase (r : RspWord) : (sendResponse r s).phase = s.phase := rfl
@[simp] theorem sendResponse_cmd (r : RspWord) : (sendResponse r s).cmd = s.cmd := rfl
@[simp] theorem sendResponse_rsp (r : RspWord) : (sendResponse r s).rsp = s.rsp ++ [r] := rfl
@[simp] theorem sendResponse_rst (r : RspWord) : (sendResponse r s).rst = s.rst := rfl
@[simp] theorem sendResponse_unanswered (r : RspWord) : (sendResponse r s).unanswered = false := rfl
@[simp] theorem sendResponse_resets (r : RspWord) : (sendResponse r s).resets = s.resets := rfl

/-! ### beginScript -/

@[simp] theorem beginScript_state (ws : List CmdWord) : (beginScript ws s).state = s.state := rfl
@[simp] theorem beginScript_inc (ws : List CmdWord) : (beginScript ws s).inc = s.inc := rfl
@[simp] theorem beginScript_phase (ws : List CmdWord) : (beginScript ws s).phase = s.phase := rfl
@[simp] theorem beginScript_cmd (ws : List CmdWord) : (beginScript ws s).cmd = ws := rfl
@[simp] theorem beginScript_rsp (ws : List CmdWord) : (beginScript ws s).rsp = s.rsp := rfl
@[simp] theorem beginScript_rst (ws : List CmdWord) : (beginScript ws s).rst = s.rst := rfl
@[simp] theorem beginScript_unanswered (ws : List CmdWord) : (beginScript ws s).unanswered = false := rfl
@[simp] theorem beginScript_resets (ws : List CmdWord) : (beginScript ws s).resets = s.resets := rfl

/-! ### passBoundary -/

@[simp] theorem passBoundary_state : (passBoundary s).state = s.state := rfl
@[simp] theorem passBoundary_inc : (passBoundary s).inc = s.inc := rfl
@[simp] theorem passBoundary_phase : (passBoundary s).phase = s.phase := rfl
@[simp] theorem passBoundary_cmd : (passBoundary s).cmd = s.cmd := rfl
@[simp] theorem passBoundary_rsp : (passBoundary s).rsp = s.rsp := rfl
@[simp] theorem passBoundary_rst : (passBoundary s).rst = s.rst.tail := rfl
@[simp] theorem passBoundary_unanswered : (passBoundary s).unanswered = s.unanswered := rfl
@[simp] theorem passBoundary_resets : (passBoundary s).resets = s.resets := rfl

/-! ### respond -/

@[simp] theorem respond_state (st : Status) (d : U64) : (respond st d s).state = s.state := rfl
@[simp] theorem respond_inc (st : Status) (d : U64) : (respond st d s).inc = s.inc := rfl
@[simp] theorem respond_phase (st : Status) (d : U64) : (respond st d s).phase = s.phase := rfl
@[simp] theorem respond_cmd (st : Status) (d : U64) : (respond st d s).cmd = s.cmd := rfl
@[simp] theorem respond_rsp (st : Status) (d : U64) : (respond st d s).rsp = s.rsp ++ [responseWord st d] := rfl
@[simp] theorem respond_rst (st : Status) (d : U64) : (respond st d s).rst = s.rst := rfl
@[simp] theorem respond_unanswered (st : Status) (d : U64) : (respond st d s).unanswered = false := rfl
@[simp] theorem respond_resets (st : Status) (d : U64) : (respond st d s).resets = s.resets := rfl

/-! ### reject -/

@[simp] theorem reject_state (st : Status) : (reject st s).state = s.state := rfl
@[simp] theorem reject_inc (st : Status) : (reject st s).inc = s.inc := rfl
@[simp] theorem reject_phase (st : Status) : (reject st s).phase = s.phase := rfl
@[simp] theorem reject_cmd (st : Status) : (reject st s).cmd = s.cmd := rfl
@[simp] theorem reject_rsp (st : Status) : (reject st s).rsp = s.rsp ++ [responseWord st 0#64] := rfl
@[simp] theorem reject_rst (st : Status) : (reject st s).rst = s.rst := rfl
@[simp] theorem reject_unanswered (st : Status) : (reject st s).unanswered = false := rfl
@[simp] theorem reject_resets (st : Status) : (reject st s).resets = s.resets := rfl

/-! ### drawAdvance -/

@[simp] theorem drawAdvance_state : (drawAdvance s).state = adv s.state s.inc := rfl
@[simp] theorem drawAdvance_inc : (drawAdvance s).inc = s.inc := rfl
@[simp] theorem drawAdvance_phase : (drawAdvance s).phase = s.phase := rfl
@[simp] theorem drawAdvance_cmd : (drawAdvance s).cmd = s.cmd := rfl
@[simp] theorem drawAdvance_rsp : (drawAdvance s).rsp = s.rsp := rfl
@[simp] theorem drawAdvance_rst : (drawAdvance s).rst = s.rst := rfl
@[simp] theorem drawAdvance_unanswered : (drawAdvance s).unanswered = s.unanswered := rfl
@[simp] theorem drawAdvance_resets : (drawAdvance s).resets = s.resets := rfl

/-! ### resetEvent -/

@[simp] theorem resetEvent_state : (resetEvent s).state = Config.resetState s.resets := rfl
@[simp] theorem resetEvent_inc : (resetEvent s).inc = Config.defaultInc := rfl
@[simp] theorem resetEvent_phase : (resetEvent s).phase = .idle := rfl
@[simp] theorem resetEvent_cmd : (resetEvent s).cmd = cmdAfterReset (Config.presentedWithdrawn s.resets) s.cmd := rfl
@[simp] theorem resetEvent_rsp : (resetEvent s).rsp = s.rsp := rfl
@[simp] theorem resetEvent_rst : (resetEvent s).rst = s.rst := rfl
@[simp] theorem resetEvent_unanswered : (resetEvent s).unanswered = unansweredAfterReset (Config.presentedWithdrawn s.resets) s := rfl
@[simp] theorem resetEvent_resets : (resetEvent s).resets = s.resets + 1 := rfl

/-- Two states are equal when their eight fields are. -/
theorem State.ext_fields {s t : State} (h1 : s.state = t.state) (h2 : s.inc = t.inc) (h3 : s.phase = t.phase)
    (h4 : s.cmd = t.cmd) (h5 : s.rsp = t.rsp) (h6 : s.rst = t.rst) (h7 : s.unanswered = t.unanswered)
    (h8 : s.resets = t.resets) : s = t := by
  cases s; cases t; simp_all

end Sys2Proof.Machine
end

