-- ==== Sys2Proof/Laws/Ops.lean ====
section
/-!
SUPPORT. One lemma for each shared operation, saying once everything it can do: accepting a command, the effects of
the six commands, a micro-step, an accepted word.
-/

namespace Sys2Proof.Machine

variable {s t : State}

/-- `whenIdle` answers a next state always: the effect in `IDLE`, nothing in `LOOP`. -/
theorem whenIdle_next_cases {f : State → State} (h : whenIdle f s = .next t) :
    (s.phase = .idle ∧ t = f s) ∨ ((∃ b q, s.phase = .loop b q) ∧ t = s) := by
  unfold whenIdle at h
  split at h <;> simp_all

/-- In `IDLE` the effect happens. -/
theorem whenIdle_of_idle {f : State → State} (h : s.phase = .idle) : whenIdle f s = .next (f s) := by
  simp [whenIdle, h]

/-- In `LOOP` the command waits. -/
theorem whenIdle_of_loop {f : State → State} {b q : U32} (h : s.phase = .loop b q) :
    whenIdle f s = .next s := by
  simp [whenIdle, h]

/-- Whatever the phase, `whenIdle` answers a next state. -/
theorem whenIdle_total (f : State → State) (s : State) : ∃ t, whenIdle f s = .next t := by
  unfold whenIdle
  split <;> exact ⟨_, rfl⟩

/-- `SEED` either writes both registers or rejects. -/
theorem seedEffect_cases (a b : U64) (s : State) :
    (sequenceIsOdd b = true ∧ seedEffect a b s = respond .ok 0#64 (writeInc b (writeState a s))) ∨
    (sequenceIsOdd b = false ∧ seedEffect a b s = reject .invalidSequence s) := by
  unfold seedEffect
  split <;> simp_all

/-- `RANGE` either answers 0 at once or enters `LOOP` with its latches. -/
theorem rangeEffect_cases (b : U32) (s : State) :
    (b = 0#32 ∧ rangeEffect b s = respond .ok 0#64 s) ∨
    (b ≠ 0#32 ∧ rangeEffect b s = writePhase (.loop b (threshold b)) s) := by
  unfold rangeEffect
  split <;> simp_all

/-- A micro-step either answers and ends the `RANGE`, or only advances `state`. -/
theorem microStep_cases (b q : U32) (s : State) :
    (drawAccepted (drawOutput s) q = true ∧
      microStep b q s =
        writePhase .idle (respond .ok (zext64 (reduce (drawOutput s) b)) (drawAdvance s))) ∨
    (drawAccepted (drawOutput s) q = false ∧ microStep b q s = drawAdvance s) := by
  unfold microStep
  split <;> simp_all

/-- What each command does when the engine is idle. -/
def commandEffect (i : Instr) (s : State) : State :=
  match i with
  | .seed a b => seedEffect a b s
  | .seedState a => seedStateEffect a s
  | .nextU32 => nextU32Effect s
  | .range b => rangeEffect b s
  | .rdState => rdStateEffect s
  | .rdInc => rdIncEffect s

/-- Every command is its effect, when the engine is idle. -/
theorem exec_eq_whenIdle (i : Instr) (s : State) : exec i s = whenIdle (commandEffect i) s := by
  cases i <;> rfl

/-- No command touches the schedule of `rst`. -/
theorem commandEffect_rst (i : Instr) (s : State) : (commandEffect i s).rst = s.rst := by
  cases i with
  | seed a b => rcases seedEffect_cases a b s with ⟨_, e⟩ | ⟨_, e⟩ <;> simp [commandEffect, e]
  | seedState a => rfl
  | nextU32 => rfl
  | range b => rcases rangeEffect_cases b s with ⟨_, e⟩ | ⟨_, e⟩ <;> simp [commandEffect, e]
  | rdState => rfl
  | rdInc => rfl

/-- The threshold as a number, for a bound that is not zero. -/
theorem threshold_toNat {b : U32} (h : b ≠ 0#32) : (threshold b).toNat = (2 ^ 32 - b.toNat) % b.toNat := by
  have h0 : b.toNat ≠ 0 := fun e => h (BitVec.eq_of_toNat_eq e)
  have h1 := Nat.mod_lt (2 ^ 32 - b.toNat) (Nat.pos_of_ne_zero h0)
  have h2 := b.isLt
  rw [threshold, BitVec.toNat_ofNat]
  exact Nat.mod_eq_of_lt (by omega)

/-- The reduced draw as a number. -/
theorem reduce_toNat (r b : U32) : (reduce r b).toNat = r.toNat % b.toNat := by
  have h1 := Nat.mod_le r.toNat b.toNat
  have h2 := r.isLt
  rw [reduce, BitVec.toNat_ofNat]
  exact Nat.mod_eq_of_lt (by omega)

/-- Drawing once more from the other end: `n` draws after one draw are `n + 1` draws. -/
theorem stateAfter_adv (s i : U64) (n : Nat) : stateAfter (adv s i) i n = stateAfter s i (n + 1) := by
  induction n with
  | zero => rfl
  | succ n ih => exact congrArg (fun v => adv v i) ih

/-- An accepted word answers a next state: its command's answer, or the rejection. -/
theorem acceptWord_next_cases {w : CmdWord} (h : acceptWord w s = .next t) :
    (∃ i, decode w = .command i ∧ exec i s = .next t) ∨
    (∃ why, decode w = .illegal why ∧ t = reject .illegalCommand s) := by
  unfold acceptWord at h
  split at h <;> simp_all

/-- Every word is answered by a next state. -/
theorem acceptWord_total (w : CmdWord) (s : State) : ∃ t, acceptWord w s = .next t := by
  unfold acceptWord
  split
  · rw [exec_eq_whenIdle]; exact whenIdle_total _ _
  · exact ⟨_, rfl⟩

/-- After a reset the words on `CMD` are those before, with or without their head. -/
theorem cmdAfterReset_eq (withdrawn : Bool) (ws : List CmdWord) :
    cmdAfterReset withdrawn ws = if withdrawn then ws.tail else ws := by
  cases ws <;> cases withdrawn <;> rfl

/-- When the last command to leave `CMD` is without a response after a reset. -/
theorem unansweredAfterReset_iff {withdrawn : Bool} :
    unansweredAfterReset withdrawn s = true ↔
      s.unanswered = true ∨ s.phase ≠ .idle ∨ (s.cmd ≠ [] ∧ withdrawn = true) := by
  simp [unansweredAfterReset, or_assoc]

end Sys2Proof.Machine
end

