-- ==== Sys2Proof/Laws/Step.lean ====
section
/-!
SUPPORT. What one step can do, said once; and runs of several steps.
-/

namespace Sys2Proof.Machine

variable {s t u : State}

/-- The four things a step can be: the event `rst`, a micro-step, an idle step with nothing presented, an
accepted word. -/
theorem step_next_cases (h : step s = .next t) :
    (rstRaised s = true ∧ t = resetEvent (passBoundary s)) ∨
    (rstRaised s = false ∧ ∃ b q, s.phase = .loop b q ∧ t = microStep b q (passBoundary s)) ∨
    (rstRaised s = false ∧ s.phase = .idle ∧ s.cmd = [] ∧ t = passBoundary s) ∨
    (rstRaised s = false ∧ s.phase = .idle ∧
      ∃ w ws, s.cmd = w :: ws ∧ acceptWord w (writeCmd ws (passBoundary s)) = .next t) := by
  unfold step at h
  split at h
  · rename_i hr
    exact .inl ⟨hr, by simpa using h.symm⟩
  · rename_i hr
    have hr' : rstRaised s = false := by simpa using hr
    unfold engineStep at h
    simp only [passBoundary_phase, passBoundary_cmd] at h
    split at h
    · rename_i b q hp
      exact .inr (.inl ⟨hr', b, q, hp, by simpa using h.symm⟩)
    · rename_i hp
      split at h
      · rename_i hc
        exact .inr (.inr (.inl ⟨hr', hp, hc, by simpa using h.symm⟩))
      · rename_i w ws hc
        exact .inr (.inr (.inr ⟨hr', hp, w, ws, hc, h⟩))

/-- A step with no `rst` is the engine's own. -/
theorem step_of_no_rst (h : rstRaised s = false) : step s = engineStep (passBoundary s) := by
  simp [step, h]

/-- Where the environment raises no `rst` from here on, it raises none now. -/
theorem rstRaised_of_none (h : ∀ x ∈ s.rst, x = false) : rstRaised s = false := by
  unfold rstRaised
  cases hr : s.rst with
  | nil => rfl
  | cons x xs => exact h x (by simp [hr])

/-- And it raises none after any step: a step only passes the schedule's head. -/
theorem step_rst (h : step s = .next t) : t.rst = s.rst.tail := by
  rcases step_next_cases h with ⟨_, rfl⟩ | ⟨_, b, q, _, rfl⟩ | ⟨_, _, _, rfl⟩ | ⟨_, hp, w, ws, _, h⟩
  · rfl
  · rcases microStep_cases b q (passBoundary s) with ⟨_, e⟩ | ⟨_, e⟩ <;> simp [e]
  · rfl
  · rcases acceptWord_next_cases h with ⟨i, _, h⟩ | ⟨_, _, rfl⟩
    · rw [exec_eq_whenIdle] at h
      rcases whenIdle_next_cases h with ⟨_, rfl⟩ | ⟨_, rfl⟩
      · rw [commandEffect_rst]
        rfl
      · rfl
    · rfl

/-- A run, one step at a time. -/
theorem runSteps_succ (n : Nat) (s : State) :
    runSteps (n + 1) s =
      match step s with
      | .next t => runSteps n t
      | .fault r => .fault r
      | .refused r => .refused r := rfl

@[simp] theorem runSteps_zero (s : State) : runSteps 0 s = .next s := rfl

/-- A run whose first step is known. -/
theorem runSteps_succ_of_step {n : Nat} (h : step s = .next t) : runSteps (n + 1) s = runSteps n t := by
  rw [runSteps_succ, h]

/-- A run in two parts. -/
theorem runSteps_add {m : Nat} (n : Nat) (h : runSteps m s = .next t) : runSteps (m + n) s = runSteps n t := by
  induction m generalizing s with
  | zero =>
    cases h
    rw [Nat.zero_add]
  | succ m ih =>
    rw [Nat.add_right_comm, runSteps_succ]
    rw [runSteps_succ] at h
    split at h
    · exact ih h
    · cases h
    · cases h

/-- What every step keeps holds at the end of every run. -/
theorem runSteps_keeps {P : State → Prop} (hP : ∀ a b, P a → step a = .next b → P b) {n : Nat}
    (h : runSteps n s = .next t) (hs : P s) : P t := by
  induction n generalizing s with
  | zero =>
    cases h
    exact hs
  | succ n ih =>
    rw [runSteps_succ] at h
    split at h
    · rename_i u hu
      exact ih h (hP _ _ hs hu)
    · cases h
    · cases h

/-- The host's run of any machine, by what its first step answers. -/
theorem host_run_succ (M : Host.Core) (n : Nat) (s : M.State) :
    (∀ t, M.step s = .next t → M.run (n + 1) s = M.run n t) ∧
    (∀ r, M.step s = .fault r → M.run (n + 1) s = .fault r) ∧
    (∀ r, M.step s = .refused r → M.run (n + 1) s = .refused r) := by
  refine ⟨fun t h => ?_, fun r h => ?_, fun r h => ?_⟩ <;> rw [Host.Core.run, h]

/-- The host's own run of the machine is this one. -/
theorem host_run_eq_runSteps (n : Nat) : ∀ s : State, Host.Core.run Sys2Proof.core n s = runSteps n s := by
  induction n with
  | zero => exact fun _ => rfl
  | succ n ih =>
    intro s
    have key := host_run_succ Sys2Proof.core n s
    cases h : step s with
    | next t =>
      have e : runSteps (n + 1) s = runSteps n t := by simp only [runSteps_succ, h]
      exact (key.1 t h).trans ((ih t).trans e.symm)
    | fault r =>
      have e : runSteps (n + 1) s = .fault r := by simp only [runSteps_succ, h]
      exact (key.2.1 r h).trans e.symm
    | refused r =>
      have e : runSteps (n + 1) s = .refused r := by simp only [runSteps_succ, h]
      exact (key.2.2 r h).trans e.symm

end Sys2Proof.Machine
end

