-- ==== Sys2Proof/Laws/HostLayer.lean ====
section
/-!
SUPPORT. What a host operation can be, and how a run until the last response goes on.
-/

namespace Sys2Proof.Machine

variable {s t : State}

/-- A run that is over stops at once, whatever the fuel. -/
theorem runUntilOver_of_over (fuel : Nat) (h : runOver s = true) : runUntilOver fuel s = some s := by
  cases fuel <;> simp [runUntilOver, h]

/-- A run that is not over takes its next step. -/
theorem runUntilOver_of_step {fuel : Nat} (h : runOver s = false) (hs : step s = .next t) :
    runUntilOver (fuel + 1) s = runUntilOver fuel t := by
  simp [runUntilOver, h, hs]

/-- The channel is free when the engine is idle and nothing is presented. -/
theorem channelFree_iff : channelFree s = true ↔ s.phase = .idle ∧ s.cmd = [] := by
  simp [channelFree]

/-- A run is over when the channel is free and the last command was answered (R179). -/
theorem runOver_iff : runOver s = true ↔ s.phase = .idle ∧ s.cmd = [] ∧ s.unanswered = false := by
  simp [runOver, channelFree, and_assoc]

/-- The three ways of a host operation (R130). -/
theorem hostRun_cases (fuel : Nat) (op : HostOp) (s : State) :
    (∃ st, hostPlan op = .fails st ∧ hostRun fuel op s = some (.failed (statusCode st), s)) ∨
    (∃ v, hostPlan op = .returns v ∧ hostRun fuel op s = some (.value v, s)) ∨
    (∃ cs, hostPlan op = .issues cs ∧
      hostRun fuel op s =
        if channelFree s then
          (runUntilOver fuel (beginScript (cs.map encode) s)).map
            fun t => (hostReply op cs.length (t.rsp.drop s.rsp.length), t)
        else none) := by
  unfold hostRun
  cases h : hostPlan op with
  | fails st => exact .inl ⟨st, rfl, rfl⟩
  | returns v => exact .inr (.inl ⟨v, rfl, rfl⟩)
  | issues cs =>
    refine .inr (.inr ⟨cs, rfl, ?_⟩)
    show (if channelFree s then _ else none) = _
    cases runUntilOver fuel (beginScript (cs.map encode) s) <;> rfl

/-- Writing into a buffer within its bounds keeps its length. -/
theorem writeBytes_length {buf bs : List U8} {off : Nat} (h : off + bs.length ≤ buf.length) :
    (writeBytes buf off bs).length = buf.length := by
  simp [writeBytes]
  omega

end Sys2Proof.Machine
end

