-- ==== Sys2Proof/Laws/PerInstr.lean ====
section
/-!
SUPPORT. Statements about every command as syntax, one lemma per constructor of `Instr`.
-/

namespace Sys2Proof.Laws.EncodedFieldsSpellTheCommand

/-- The fields a command is spelled with pass the checks of R61 and R63, and `op` is the row number of
R61. -/
def Statement (i : Instr) : Prop :=
  (instrFields i).wf = true ∧ i.wf = true ∧
    (instrFields i).op.toNat =
      match i with
      | .seed _ _ => 1
      | .seedState _ => 2
      | .nextU32 => 3
      | .range _ => 4
      | .rdState => 5
      | .rdInc => 6

theorem seed (a b : U64) : Statement (.seed a b) := ⟨rfl, rfl, rfl⟩

theorem seedState (a : U64) : Statement (.seedState a) := ⟨rfl, rfl, rfl⟩

theorem nextU32 : Statement .nextU32 := ⟨rfl, rfl, rfl⟩

theorem range (bound : U32) : Statement (.range bound) := by
  refine ⟨?_, rfl, rfl⟩
  have h : (bound.setWidth 64) >>> 32 = 0#64 := by
    apply BitVec.eq_of_getLsbD_eq
    intro i hi
    simp
  simp [Fields.wf, Fields.opDefined, Fields.mbzClear, instrFields, h]

theorem rdState : Statement .rdState := ⟨rfl, rfl, rfl⟩

theorem rdInc : Statement .rdInc := ⟨rfl, rfl, rfl⟩

end Sys2Proof.Laws.EncodedFieldsSpellTheCommand
end

