-- ==== Sys2Proof/Tests/Slice0.lean ====
section
/-!
SUPPORT. The model's own tests. Every expected value is one of spec/95_test_vectors.md (named V-…, P… below), of an
example in a rule, or written out by hand from spec/30_encoding.md R60 to R62. Then one witness for the hypotheses of
each statement that has any.
-/

namespace Sys2Proof.Tests.Slice0

open Sys2Proof Sys2Proof.Machine

/-- An engine with the given registers, phase and words on `CMD`, no `rst` to come. -/
def engine (state inc : U64) (phase : Phase) (cmd : List CmdWord) : State :=
  { state := state, inc := inc, phase := phase, cmd := cmd, rsp := [], rst := [], unanswered := false, resets := 1 }

/-- The next state of an answer, if it is one. -/
def nextOf (o : Host.Outcome State Fault Refusal) : Option State :=
  match o with
  | .next s => some s
  | .fault _ => none
  | .refused _ => none

/-- The seed `S0` of the spec's examples. -/
def s0 : U64 := 0x853C49E6748FEA9B#64

/-- `DEFAULT_INC`, as R6 writes it in decimal. -/
def i0 : U64 := 15726070495360670683#64

/-- The words of the table, as R62 gives them. -/
def wSeed1 : CmdWord := 0x0100000000000000000000000000000001#136
def wNext : CmdWord := 0x0300000000000000000000000000000000#136
def wRange3 : CmdWord := 0x0400000000000000000000000000000003#136
def wRdState : CmdWord := 0x0500000000000000000000000000000000#136
def wRdInc : CmdWord := 0x0600000000000000000000000000000000#136

/-! ### Well-formedness: one ill-formed term for each check -/

theorem test_wf_refuses_opcode_zero : Fields.wf ⟨0x00#8, 0#64, 0#64⟩ = false := by decide
theorem test_wf_refuses_opcode_seven : Fields.wf ⟨0x07#8, 0#64, 0#64⟩ = false := by decide
theorem test_wf_refuses_seed_state_with_b : Fields.wf ⟨0x02#8, 42#64, 1#64⟩ = false := by decide
theorem test_wf_refuses_next_with_a : Fields.wf ⟨0x03#8, 1#64, 0#64⟩ = false := by decide
theorem test_wf_refuses_next_with_b : Fields.wf ⟨0x03#8, 0#64, 1#64⟩ = false := by decide
theorem test_wf_refuses_range_with_a : Fields.wf ⟨0x04#8, 1#64, 5#64⟩ = false := by decide
theorem test_wf_refuses_range_with_wide_bound : Fields.wf ⟨0x04#8, 0#64, 0x100000000#64⟩ = false := by decide
theorem test_wf_refuses_rd_state_with_b : Fields.wf ⟨0x05#8, 0#64, 1#64⟩ = false := by decide
theorem test_wf_refuses_rd_inc_with_a : Fields.wf ⟨0x06#8, 0x8000000000000000#64, 0#64⟩ = false := by decide
theorem test_wf_takes_widest_range : Fields.wf ⟨0x04#8, 0#64, 0xFFFFFFFF#64⟩ = true := by decide

/-! ### Decoding, words written out from R60 to R62 (V-S1, V-S2, V-D1 to V-D14) -/

theorem test_decode_seed : decode 0x01853C49E6748FEA9BDA3E39CB94B95BDB#136 = .command (.seed s0 i0) := by decide
theorem test_decode_seed_even : decode 0x01000000000000002A0000000000000004#136 = .command (.seed 42#64 4#64) := by
  decide
theorem test_decode_seed_state : decode 0x02000000000000002A0000000000000000#136 = .command (.seedState 42#64) := by
  decide
theorem test_decode_next : decode 0x0300000000000000000000000000000000#136 = .command .nextU32 := by decide
theorem test_decode_range : decode 0x0400000000000000000000000080000001#136 = .command (.range 0x80000001#32) := by
  decide
theorem test_decode_rd_state : decode 0x0500000000000000000000000000000000#136 = .command .rdState := by decide
theorem test_decode_rd_inc : decode 0x0600000000000000000000000000000000#136 = .command .rdInc := by decide
theorem test_decode_illegal :
    decode 0x0000000000000000000000000000000000#136 = .illegal .undefinedOpcode ∧
    decode 0xFF00000000000000010000000000000002#136 = .illegal .undefinedOpcode ∧
    decode 0x0300000000000000010000000000000000#136 = .illegal .mustBeZero ∧
    decode 0x0400000000000000000000000100000000#136 = .illegal .mustBeZero ∧
    decode 0x02000000000000002A0000000000000001#136 = .illegal .mustBeZero ∧
    decode 0x0680000000000000000000000000000000#136 = .illegal .mustBeZero := by decide

/-- The word of V-S4, its bytes written out in the order of R44. -/
theorem test_decode_bytes_little_endian :
    decodeBytes [5, 0, 0, 0, 0, 0, 0, 0, 0x2A, 0, 0, 0, 0, 0, 0, 0, 1, 0xFF] =
      .command (.seed 42#64 5#64) [0xFF] := by decide
theorem test_decode_bytes_too_few : decodeBytes [5, 0, 0] = .truncated := by decide
theorem test_decode_table_word :
    decodeTableWord 136 0x0400000000000000000000000000000003 = some (.range 3#32) ∧
    decodeTableWord 136 0x0700000000000000000000000000000000 = none := by decide

/-- The response of P1 line 2, its 9 bytes in the order of R44. -/
theorem test_response_bytes :
    responseBytes (responseWord .ok 0x152CA78D#64) = [0x8D, 0xA7, 0x2C, 0x15, 0, 0, 0, 0, 0] := by decide

/-! ### One step of each command -/

/-- V-S1. -/
theorem test_seed_loads :
    nextOf (step (engine 0x1111111111111111#64 i0 .idle [0x01853C49E6748FEA9BDA3E39CB94B95BDB#136])) =
      some { engine s0 i0 .idle [] with rsp := [0x000000000000000000#72] } := by decide
/-- V-S3. -/
theorem test_seed_rejects_even :
    nextOf (step (engine 0x1111111111111111#64 i0 .idle [0x01000000000000002A0000000000000004#136])) =
      some { engine 0x1111111111111111#64 i0 .idle [] with rsp := [0x010000000000000000#72] } := by decide
/-- V-S2, from an engine with another sequence. -/
theorem test_seed_state_loads :
    nextOf (step (engine 7#64 5#64 .idle [0x02000000000000002A0000000000000000#136])) =
      some { engine 42#64 0xDA3E39CB94B95BDB#64 .idle [] with rsp := [0x000000000000000000#72] } := by decide
/-- V-C11, P1 line 2. -/
theorem test_next_u32 :
    nextOf (step (engine s0 i0 .idle [0x0300000000000000000000000000000000#136])) =
      some { engine 0xC83015CA079F7E1A#64 i0 .idle [] with rsp := [0x0000000000152CA78D#72] } := by decide
/-- V-C3, V-C7, V-C10: the rotation goes right, and bit 0 wraps to bit 31. -/
theorem test_next_u32_rotation :
    out 0xFFFFFFFFFFFFFFFF#64 = 0xFFF00001#32 ∧ out 0xF800000000000000#64 = 0x000F8000#32 ∧
    out 0x0800000008000000#64 = 0x80002000#32 ∧ adv 0xFFFFFFFFFFFFFFFF#64 1#64 = 0xA7AE0BD2B36A80D4#64 := by decide
/-- The acceptance of `RANGE 3` in the trace of V-R4. -/
theorem test_range_accepts :
    nextOf (step (engine 0#64 1#64 .idle [0x0400000000000000000000000000000003#136])) =
      some (engine 0#64 1#64 (.loop 3#32 1#32) []) := by decide
/-- P2 line 2. -/
theorem test_range_zero :
    nextOf (step (engine 0#64 1#64 .idle [0x0400000000000000000000000000000000#136])) =
      some { engine 0#64 1#64 .idle [] with rsp := [0x000000000000000000#72] } := by decide
/-- Step 1 of the trace of V-R4: 0 is below the threshold 1. -/
theorem test_micro_step_rejects :
    nextOf (step (engine 0#64 1#64 (.loop 3#32 1#32) [0x0500000000000000000000000000000000#136])) =
      some (engine 1#64 1#64 (.loop 3#32 1#32) [0x0500000000000000000000000000000000#136]) := by decide
/-- V-R24: a draw equal to the threshold is accepted. -/
theorem test_micro_step_accepts_equal :
    nextOf (step (engine 0x0000000008000000#64 1#64 (.loop 0xFFFFFFFF#32 1#32) [])) =
      some { engine 0x6A64ABF968000001#64 1#64 .idle [] with rsp := [0x000000000000000001#72] } := by decide
/-- V-R28 and V-R20 at the command level: five draws, three draws. -/
theorem test_rng :
    rng 10 0xC0B18CCF4E252D17#64 1#64 0x80000001#32 = some ⟨0x51FAAB15#32, 0x9A8B7F78DA6EF4D8#64, 5⟩ ∧
    rng 10 s0 i0 0x80000001#32 = some ⟨0x4B07BBF2#32, 0xDBBE54146B3E7E04#64, 3⟩ ∧
    rng 4 0xC0B18CCF4E252D17#64 1#64 0x80000001#32 = none := by decide
/-- V-I1. -/
theorem test_rd_state :
    nextOf (step (engine 0xC83015CA079F7E1A#64 i0 .idle [0x0500000000000000000000000000000000#136])) =
      some { engine 0xC83015CA079F7E1A#64 i0 .idle [] with rsp := [0x00C83015CA079F7E1A#72] } := by decide
/-- V-I2. -/
theorem test_rd_inc :
    nextOf (step (engine 0xC83015CA079F7E1A#64 i0 .idle [0x0600000000000000000000000000000000#136])) =
      some { engine 0xC83015CA079F7E1A#64 i0 .idle [] with rsp := [0x00DA3E39CB94B95BDB#72] } := by decide
/-- V-D4. -/
theorem test_illegal_word :
    nextOf (step (engine 3#64 5#64 .idle [0x0300000000000000000000000000000001#136])) =
      some { engine 3#64 5#64 .idle [] with rsp := [0x030000000000000000#72] } := by decide
/-- R177: `rst` in `LOOP` gives `IDLE`, the default increment and no response. -/
theorem test_rst_abandons_range :
    (nextOf (step { engine 0#64 1#64 (.loop 3#32 1#32) [] with rst := [true] })).map
      (fun s => (s.inc, s.phase, s.rsp)) = some (i0, .idle, []) := by decide
/-- R179, D12: after that the host's run is not over, nor 3 steps later. -/
theorem test_abandoned_range_is_never_over :
    runUntilOver 3 { engine 0#64 1#64 (.loop 3#32 1#32) [] with rst := [true] } = none := by
  decide
/-- U9, the word on `CMD` kept (accepted after reset) and withdrawn (then never answered). -/
theorem test_word_waiting_at_reset :
    cmdAfterReset false [wNext] = [wNext] ∧ unansweredAfterReset false (engine s0 i0 .idle [wNext]) = false ∧
    cmdAfterReset true [wNext] = [] ∧ unansweredAfterReset true (engine s0 i0 .idle [wNext]) = true := by decide
/-- The host's placing of an instruction, from reset. -/
theorem test_placed_word_runs_after_reset :
    (nextOf (step (State.reset.withFetchWord 136 0x0400000000000000000000000000000003))).map (fun s => s.phase) =
      some (.loop 3#32 1#32) := by decide

/-! ### The host layer (V-H2, V-H4, V-H5, V-H5a, V-H9, V-H10, V-H11; P4) -/

theorem test_next_max :
    (hostRun 9 (.nextMax 100#32) (engine s0 i0 .idle [])).map (fun p => (p.1, p.2.state)) =
      some (.value (.i32 13#32), 0xC83015CA079F7E1A#64) := by decide
theorem test_next_max_negative :
    (hostRun 9 (.nextMax (BitVec.ofInt 32 (-1))) (engine s0 i0 .idle [])).map (fun p => p.1) =
      some (.failed 0x02#8) := by decide
theorem test_next_minmax :
    (hostRun 9 (.nextMinMax (BitVec.ofInt 32 (-5)) 5#32) (engine s0 i0 .idle [])).map (fun p => p.1) =
      some (.value (.i32 (BitVec.ofInt 32 (-2)))) ∧
    (hostRun 9 (.nextMinMax 0x80000000#32 0x7FFFFFFF#32) (engine s0 i0 .idle [])).map (fun p => p.1) =
      some (.value (.i32 (BitVec.ofInt 32 (-1792235635)))) := by decide
theorem test_next_bytes :
    (hostRun 2 (.nextBytes [0, 0, 0, 0, 0, 0, 0]) (engine s0 i0 .idle [])).map (fun p => (p.1, p.2.state)) =
      some (.value (.bytes [0x8D, 0xA7, 0x2C, 0x15, 0x03, 0x60, 0x7C]), 0xBFCF03ED28736C6D#64) := by decide
theorem test_sample_word :
    sampleWord 0x152CA78D#32 = 0x3FB52CA78D000000#64 ∧ sampleWord 0x027C6003#32 = 0x3F83E30018000000#64 ∧
    sampleWord 0#32 = 0#64 ∧ sampleWord 1#32 = 0x3DF0000000000000#64 ∧
    sampleWord 0x80000000#32 = 0x3FE0000000000000#64 ∧ sampleWord 0xFFFFFFFF#32 = 0x3FEFFFFFFFE00000#64 := by decide
theorem test_debug_text :
    (hostRun 2 .debugText (engine s0 i0 .idle [])).map (fun p => p.1) =
      some (.value (.text "[PCG32 state: 9600629759793949339, sequence: 15726070495360670683]")) := by decide

/-! ### Script text (R71) -/

theorem test_read_line :
    readLine "  SEED  0x853C49E6748fea9b , 15726070495360670683 ; seed S0".toList = some (.seed s0 i0) ∧
    readLine "RANGE 0x100000000".toList = none ∧ readLine "RANGE".toList = none := by decide
theorem test_read_script :
    readScript "SEED_STATE 42 ; default sequence\n\nNEXT_U32\nRD_INC" =
      some [.seedState 42#64, .nextU32, .rdInc] := by decide
theorem test_write_response :
    writeResponse .ok 0x152CA78D#64 = "OK:0x00000000152CA78D" ∧
    writeResponse .invalidSequence 0#64 = "InvalidSequence" := by decide

/-! ### Witnesses: for each statement with hypotheses, states and operands that meet all of them, at the ends of
the ranges its clauses speak of -/

theorem witness_RstRestoresResetValuesWithoutAnswer :
    rstRaised { engine 0#64 1#64 (.loop 3#32 1#32) [wNext] with rst := [true] } = true ∧
    rstRaised { engine 0#64 1#64 .idle [] with rst := [true, false] } = true := by decide
theorem witness_OnlyRstResets :
    (∃ t, rstRaised (engine 0#64 1#64 .idle [wSeed1]) = false ∧ step (engine 0#64 1#64 .idle [wSeed1]) = .next t) ∧
    ∃ t, rstRaised (engine s0 i0 (.loop 3#32 1#32) []) = false ∧
      step (engine s0 i0 (.loop 3#32 1#32) []) = .next t ∧
      (engine s0 i0 (.loop 3#32 1#32) []).phase ≠ .idle ∧ t.phase = .idle :=
  ⟨⟨_, rfl, rfl⟩, _, rfl, rfl, by decide, by decide⟩
/-- A run that ends by its response; a `RANGE` abandoned with nothing more presented (R177). -/
theorem witness_RunIsOverOnlyOnReceipt :
    (∃ t, runOver (engine 0#64 1#64 .idle [wNext]) = false ∧ step (engine 0#64 1#64 .idle [wNext]) = .next t ∧
      runOver t = true) ∧
    ∃ t u, rstRaised { engine 0#64 1#64 (.loop 3#32 1#32) [] with rst := [true] } = true ∧
      step { engine 0#64 1#64 (.loop 3#32 1#32) [] with rst := [true] } = .next t ∧ t.cmd = [] ∧
      (engine 0#64 1#64 (.loop 3#32 1#32) []).phase ≠ .idle ∧ runSteps 2 t = .next u :=
  ⟨⟨_, by decide, rfl, by decide⟩, _, _, rfl, rfl, rfl, by decide, rfl⟩
theorem witness_SeedLoadsBothRegistersOrRejects :
    (engine 0#64 1#64 .idle []).phase = .idle ∧ (1#64).toNat % 2 = 1 ∧ (0xFFFFFFFFFFFFFFFF#64).toNat % 2 = 1 ∧
    (0#64).toNat % 2 = 0 ∧ (0xFFFFFFFFFFFFFFFE#64).toNat % 2 = 0 := by decide
/-- The hypothesis of the statements about one command: the engine is idle. -/
theorem witness_idle_statements :
    (engine 0#64 1#64 .idle []).phase = .idle ∧
    (engine 0xFFFFFFFFFFFFFFFF#64 0xFFFFFFFFFFFFFFFF#64 .idle [wNext]).phase = .idle := by decide
theorem witness_SeedingForgetsTheEarlierGenerator :
    ∃ t1 t2, (1#64).toNat % 2 = 1 ∧ encode (.seed 0#64 1#64) = wSeed1 ∧
      (engine 5#64 7#64 .idle [wSeed1, wNext]).phase = .idle ∧
      (∀ x ∈ (engine 5#64 7#64 .idle [wSeed1, wNext]).rst, x = false) ∧
      (∀ x ∈ (engine 9#64 3#64 .idle [wSeed1, wNext]).rst, x = false) ∧
      runSteps (1 + 1) (engine 5#64 7#64 .idle [wSeed1, wNext]) = .next t1 ∧
      runSteps (1 + 1) (engine 9#64 3#64 .idle [wSeed1, wNext]) = .next t2 :=
  ⟨_, _, by decide, by decide, rfl, by decide, by decide, rfl, rfl⟩
theorem witness_OutputComesFromTheOldState :
    (engine 9#64 3#64 .idle []).phase = .idle ∧ i0.toNat % 2 = 1 ∧ i0 ≠ (engine 9#64 3#64 .idle []).inc := by decide
theorem witness_StateBitsThatReachTheOutput :
    (18 ≤ 18 ∧ 19 ≤ 19 ∧ 31 ≤ 31) ∧
    (∀ j, 27 ≤ j → (0#64).getLsbD j = (0x7FFFFFF#64).getLsbD j) ∧ (0#64 ≠ 0x7FFFFFF#64) := by
  refine ⟨by decide, fun j hj => ?_, by decide⟩
  by_cases h : j < 64
  · have h64 : ∀ k : Fin 64, 27 ≤ k.val → (0#64).getLsbD k.val = (0x7FFFFFF#64).getLsbD k.val := by decide
    exact h64 ⟨j, h⟩ hj
  · rw [BitVec.getLsbD_of_ge _ _ (by omega), BitVec.getLsbD_of_ge _ _ (by omega)]
theorem witness_RotationMovesEveryBit : 0 < 32 ∧ 31 < 32 ∧ (31 : Nat) ≠ 0 ∧ (1 : Nat) ≠ 0 := by decide
theorem witness_ConsecutiveDrawsFollowTheRecurrence :
    (engine s0 i0 .idle [wNext, wNext, wRdState]).phase = .idle ∧
    (∀ x ∈ (engine s0 i0 .idle [wNext, wNext, wRdState]).rst, x = false) ∧
    [wNext, wNext, wRdState] = List.replicate 2 (encode .nextU32) ++ [wRdState] ∧
    [wRdState] = List.replicate 0 (encode .nextU32) ++ [wRdState] := by decide
theorem witness_RecurrenceHasFullPeriod : (1#64).toNat % 2 = 1 ∧ i0.toNat % 2 = 1 ∧ 0 < 1 ∧ 1 < 2 ^ 64 := by decide
theorem witness_RangeIsAcceptedIntoTheLoop :
    (engine 0#64 1#64 .idle []).phase = .idle ∧ 1#32 ≠ 0#32 ∧ 0xFFFFFFFF#32 ≠ 0#32 ∧
    (engine 0#64 1#64 (.loop 3#32 1#32) []).phase = .loop 3#32 1#32 := by decide
/-- The draw equals the threshold (V-R24), and is one below it (V-R4). -/
theorem witness_MicroStepDrawsOnce :
    rstRaised (engine 0x0000000008000000#64 1#64 (.loop 0xFFFFFFFF#32 1#32) []) = false ∧
    (1#32).toNat ≤ (out 0x0000000008000000#64).toNat ∧ (out 0x0000000008000000#64).toNat = 1 ∧
    (out 0#64).toNat < (1#32).toNat := by decide
/-- Each clause: `IDLE` to `LOOP`, `LOOP` to `LOOP`, `LOOP` to `IDLE` by a draw and by `rst`. -/
theorem witness_PhaseChangesOnlyAsTheReducerSays :
    (∃ t, step (engine 0#64 1#64 .idle [wRange3]) = .next t ∧ t.phase = .loop 3#32 1#32) ∧
    (∃ t, step (engine 0#64 1#64 (.loop 3#32 1#32) []) = .next t ∧ t.phase = .loop 3#32 1#32) ∧
    (∃ t, step (engine s0 i0 (.loop 3#32 1#32) []) = .next t ∧ t.phase = .idle) ∧
    (∃ t, step { engine 0#64 1#64 (.loop 3#32 1#32) [] with rst := [true] } = .next t ∧ t.phase = .idle) :=
  ⟨⟨_, rfl, by decide⟩, ⟨_, rfl, by decide⟩, ⟨_, rfl, by decide⟩, ⟨_, rfl, rfl⟩⟩
theorem witness_ThresholdHasThreeForms :
    1#32 ≠ 0#32 ∧ 0xFFFFFFFF#32 ≠ 0#32 ∧
    ∃ t, (engine 0#64 1#64 (.loop 3#32 1#32) []).phase = .loop 3#32 1#32 ∧
      step (engine 0#64 1#64 (.loop 3#32 1#32) []) = .next t :=
  ⟨by decide, by decide, _, rfl, rfl⟩
theorem witness_RangeIntegerLaws :
    1#32 ≠ 0#32 ∧ 0x80000001#32 ≠ 0#32 ∧ 0 ≤ 31 ∧ 31 ≤ 31 ∧ 0xFFFFFFFE#32 ≠ 0xFFFFFFFF#32 := by decide
theorem witness_EachResidueIsEquallyFrequent :
    (0#32).toNat < (1#32).toNat ∧ (0xFFFFFFFE#32).toNat < (0xFFFFFFFF#32).toNat := by decide
theorem witness_RngIsTheLeastAcceptedDraw :
    3#32 ≠ 0#32 ∧ rng 3 0#64 1#64 3#32 = some ⟨1#32, 0xC0B18CCF4E252D17#64, 3⟩ := by decide
theorem witness_MicroStepsAgreeWithCommandLevel :
    3#32 ≠ 0#32 ∧ (engine 0#64 1#64 .idle [wRange3, wNext]).phase = .idle ∧
    (∀ x ∈ (engine 0#64 1#64 .idle [wRange3, wNext]).rst, x = false) ∧
    [wRange3, wNext] = encode (.range 3#32) :: [wNext] ∧
    rng 3 0#64 1#64 3#32 = some ⟨1#32, 0xC0B18CCF4E252D17#64, 3⟩ ∧ 0 < 3 ∧ 2 < 3 := by decide
theorem witness_EveryRangeEnds :
    (engine 0#64 1#64 .idle [wRange3]).phase = .idle ∧ (1#64).toNat % 2 = 1 ∧
    (∀ x ∈ (engine 0#64 1#64 .idle [wRange3]).rst, x = false) ∧ [wRange3] = encode (.range 3#32) :: [] ∧
    0x0400000000000000000000000000000000#136 = encode (.range 0#32) := by decide
theorem witness_RdIncAnswersInc : Inv (engine 0#64 1#64 .idle []) := by
  refine ⟨by decide, by decide, by decide⟩
theorem witness_ReadOutsHaveNoSideEffect :
    (∀ i ∈ [Instr.rdState, .rdInc, .rdState], i = .rdState ∨ i = .rdInc) ∧
    (∀ x ∈ (engine s0 i0 .idle [wRdState, wRdInc, wRdState, wNext]).rst, x = false) ∧
    [wRdState, wRdInc, wRdState, wNext] = [Instr.rdState, .rdInc, .rdState].map encode ++ [wNext] := by decide
theorem witness_ForkByReadingAndSeeding :
    (engine s0 i0 .idle []).phase = .idle ∧ (engine 3#64 5#64 .idle []).phase = .idle ∧
    (engine s0 i0 .idle []).inc.toNat % 2 = 1 := by decide
/-- Legal and illegal words on the two sides of each clause. -/
theorem witness_IllegalWordsAreAnsweredAndChangeNothing :
    decode 0x00FFFFFFFFFFFFFFFFFFFFFFFFFFFFFFFF#136 = .illegal .undefinedOpcode ∧
    decode 0x0700000000000000000000000000000000#136 = .illegal .undefinedOpcode ∧
    decode 0x0600000000000000000000000000000000#136 = .command .rdInc ∧
    decode 0x0400000000000000000000000100000000#136 = .illegal .mustBeZero ∧
    decode 0x04000000000000000000000000FFFFFFFF#136 = .command (.range 0xFFFFFFFF#32) ∧
    decode 0x0200000000000000000000000000000001#136 = .illegal .mustBeZero ∧
    decode 0x0600000000000000010000000000000000#136 = .illegal .mustBeZero ∧
    rstRaised (engine 3#64 5#64 .idle [0x0700000000000000000000000000000000#136, wNext]) = false := by decide
theorem witness_DecodeOfEncodeIsTheCommand : Instr.wf (.range 0xFFFFFFFF#32) = true := by decide
theorem witness_EncodeOfDecodeIsTheWord : decode wRange3 = .command (.range 3#32) := by decide
theorem witness_StepRunsTheDecodedCommand :
    rstRaised (engine 0#64 1#64 .idle [wRange3, wNext]) = false ∧
    (engine 0#64 1#64 .idle [wRange3, wNext]).cmd = wRange3 :: [wNext] ∧ decode wRange3 = .command (.range 3#32) := by
  decide
theorem witness_StepRunsAPlacedTableWord :
    decodeTableWord 136 0x0400000000000000000000000000000003 = some (.range 3#32) := by decide
theorem witness_IdleEngineWithNothingPresentedKeepsItsState :
    rstRaised (engine 3#64 5#64 .idle []) = false ∧ (engine 3#64 5#64 .idle []).cmd = [] := by decide
theorem witness_CommandsWaitUnexaminedInTheLoop :
    ∃ t, (engine 0#64 1#64 (.loop 3#32 1#32) [wNext]).phase = .loop 3#32 1#32 ∧
      rstRaised (engine 0#64 1#64 (.loop 3#32 1#32) [wNext]) = false ∧
      step (engine 0#64 1#64 (.loop 3#32 1#32) [wNext]) = .next t :=
  ⟨_, rfl, rfl, rfl⟩
theorem witness_ExactlyOneAnswerPerCommand :
    ∃ t, (∀ x ∈ (engine 0#64 1#64 .idle [wRange3, wNext]).rst, x = false) ∧
      runSteps 2 (engine 0#64 1#64 .idle [wRange3, wNext]) = .next t ∧ t.phase ≠ .idle :=
  ⟨_, by decide, rfl, by decide⟩
theorem witness_EqualEnginesAnswerEqually :
    ∃ t1 t2, (∀ x ∈ (engine s0 i0 .idle [wNext]).rst, x = false) ∧
      runSteps 1 (engine s0 i0 .idle [wNext]) = .next t1 ∧
      runSteps 1 { engine s0 i0 .idle [wNext] with rsp := [0#72], rst := [false], resets := 4 } = .next t2 ∧
      (∀ x ∈ ({ engine s0 i0 .idle [wNext] with rsp := [0#72], rst := [false], resets := 4 } : State).rst, x = false) :=
  ⟨_, _, by decide, rfl, rfl, by decide⟩
/-- A rejected `SEED` meets the last clause; an accepted `RANGE` the one about `phase`. -/
theorem witness_CommandsWriteOnlyWhatTheAccessTableSays :
    (∃ t, exec (.seed 42#64 4#64) (engine 3#64 5#64 .idle []) = .next t ∧
      t.rsp = [0x010000000000000000#72] ∧ responseStatus 0x010000000000000000#72 ≠ 0x00#8) ∧
    ∃ t, exec (.range 3#32) (engine 3#64 5#64 .idle []) = .next t :=
  ⟨⟨_, rfl, by decide, by decide⟩, _, rfl⟩
theorem witness_OnlySeedingAndResetWriteInc :
    ∃ t, step (engine 3#64 5#64 .idle [wSeed1]) = .next t ∧ t.inc ≠ 5#64 :=
  ⟨_, rfl, by decide⟩
theorem witness_EveryStepKeepsTheInvariant :
    (∃ t, Inv (engine 0#64 1#64 (.loop 3#32 1#32) [wNext]) ∧
      step (engine 0#64 1#64 (.loop 3#32 1#32) [wNext]) = .next t) ∧
    ¬ Inv (engine 0#64 2#64 .idle []) ∧ ¬ Inv (engine 0#64 1#64 (.loop 3#32 2#32) []) ∧
    ¬ Inv { engine 0#64 1#64 .idle [] with rsp := [0x020000000000000000#72] } :=
  ⟨⟨_, ⟨by decide, by decide, by decide⟩, rfl⟩, fun h => absurd h.1 (by decide), fun h => absurd h.2.1 (by decide),
    fun h => absurd h.2.2 (by decide)⟩
theorem witness_EnginesShareNothing :
    ∃ es, stepEngineAt 1 [engine s0 i0 .idle [wNext], engine 0#64 1#64 .idle [wNext]] = .next es ∧ (0 : Nat) ≠ 1 :=
  ⟨_, rfl, by decide⟩
/-- The hypotheses of the statements about the host layer: the channel is free and no `rst` comes. -/
theorem witness_host_layer_statements :
    channelFree (engine s0 i0 .idle []) = true ∧ (∀ x ∈ (engine s0 i0 .idle []).rst, x = false) ∧
    (4#64).toNat % 2 = 0 ∧ (5#64).toNat % 2 = 1 := by decide
theorem witness_InvalidBoundIssuesNoCommand :
    hostPlan (.nextMax 0x80000000#32) = .fails .invalidBound ∧ hostPlan (.nextMinMax 5#32 5#32) = .fails .invalidBound ∧
    hostPlan (.nextMinMax 5#32 3#32) = .fails .invalidBound ∧ hostPlan (.nextMax 0#32) = .returns (.i32 0#32) := by
  decide
theorem witness_SignedSamplersAnswerInRange :
    (rng 1 s0 i0 0x7FFFFFFF#32).isSome ∧ (rng 1 s0 i0 1#32).isSome ∧ 0 < (1#32).toInt ∧ 0 < (0x7FFFFFFF#32).toInt ∧
    (0x80000000#32).toInt < (0x7FFFFFFF#32).toInt ∧
    ((0xFFFFFFFF#32).toNat : Int) = (0x7FFFFFFF#32).toInt - (0x80000000#32).toInt ∧
    (rng 1 s0 i0 0xFFFFFFFF#32).isSome := by decide
theorem witness_NextBytesFillsTheBuffer :
    channelFree (engine s0 i0 .idle []) = true ∧ 0 < [0#8, 0#8, 0#8, 0#8, 0#8].length ∧
    4 < [0#8, 0#8, 0#8, 0#8, 0#8].length := by decide

end Sys2Proof.Tests.Slice0
end

section
/-! ### The state after power-on (spec/10_state.md R31) -/

namespace Sys2Proof.Machine

@[simp] theorem State.reset_inc : State.reset.inc = Config.defaultInc := rfl

@[simp] theorem State.reset_phase : State.reset.phase = .idle := rfl

/-- Settles O1: `Config.defaultInc` is the spec's hexadecimal literal, and both registers are read off the power-on
state. -/
theorem powerOnLoadsDefaultIncrementAndIdles : Obligations.PowerOnLoadsDefaultIncrementAndIdles := by
  unfold Obligations.PowerOnLoadsDefaultIncrementAndIdles
  exact ⟨State.reset_inc, State.reset_phase⟩

end Sys2Proof.Machine
end

section
/-!
### Words as numbers (spec/30_encoding.md R60, R66)
-/

namespace Sys2Proof

/-- Two fields side by side are a number in base `2 ^ n`. -/
theorem toNat_append_eq_mul_add {m n : Nat} (x : BitVec m) (y : BitVec n) :
    (x ++ y).toNat = x.toNat * 2 ^ n + y.toNat := by
  rw [BitVec.toNat_append, ← Nat.shiftLeft_add_eq_or_of_lt y.isLt, Nat.shiftLeft_eq]

theorem packFields_toNat (f : Fields) :
    (packFields f).toNat = f.op.toNat * 2 ^ 128 + f.a.toNat * 2 ^ 64 + f.b.toNat := by
  have h : (packFields f).toNat = (f.op.toNat * 2 ^ 64 + f.a.toNat) * 2 ^ 64 + f.b.toNat := by
    rw [← toNat_append_eq_mul_add, ← toNat_append_eq_mul_add]
    rfl
  rw [h, Nat.add_mul, Nat.mul_assoc, ← Nat.pow_add]

theorem wordOp_toNat (w : CmdWord) : (wordOp w).toNat = w.toNat / 2 ^ 128 := by
  have h := w.isLt
  rw [wordOp, BitVec.extractLsb'_toNat, Nat.shiftRight_eq_div_pow]
  exact Nat.mod_eq_of_lt (Nat.div_lt_of_lt_mul (by simpa using h))

theorem wordA_toNat (w : CmdWord) : (wordA w).toNat = w.toNat / 2 ^ 64 % 2 ^ 64 := by
  rw [wordA, BitVec.extractLsb'_toNat, Nat.shiftRight_eq_div_pow]

theorem wordB_toNat (w : CmdWord) : (wordB w).toNat = w.toNat % 2 ^ 64 := by
  rw [wordB, BitVec.extractLsb'_toNat, Nat.shiftRight_zero]

/-- Settles O32: a packed word is its fields in base `2 ^ 64`, and splitting it gives them back. -/
theorem commandWordIsItsThreeFields : Obligations.CommandWordIsItsThreeFields := by
  unfold Obligations.CommandWordIsItsThreeFields
  exact fun f => ⟨packFields_toNat f, wordOp_packFields f, wordA_packFields f, wordB_packFields f⟩

end Sys2Proof

namespace Sys2Proof.Machine

theorem responseWord_toNat (st : Status) (d : U64) :
    (responseWord st d).toNat = (statusCode st).toNat * 2 ^ 64 + d.toNat :=
  toNat_append_eq_mul_add (statusCode st) d

@[simp] theorem responseStatus_responseWord (st : Status) (d : U64) :
    responseStatus (responseWord st d) = statusCode st :=
  BitVec.extractLsb'_append_eq_left

@[simp] theorem responseData_responseWord (st : Status) (d : U64) : responseData (responseWord st d) = d :=
  BitVec.extractLsb'_append_eq_right

/-- Settles O33: the response word is code and data in base `2 ^ 64`, and its two fields are read back. -/
theorem responseWordIsStatusAndData : Obligations.ResponseWordIsStatusAndData := by
  unfold Obligations.ResponseWordIsStatusAndData
  exact ⟨fun st d => ⟨responseWord_toNat st d, responseStatus_responseWord st d, responseData_responseWord st d⟩,
    rfl, rfl, rfl, rfl⟩

end Sys2Proof.Machine
end

section
/-!
### The rows of the decode table (spec/30_encoding.md R62 to R65)

Which words each row selects, by the numbers in their fields; that the `op` byte keeps the rows apart; and what
`decode` answers, by the rows.
-/

namespace Sys2Proof

/-- The upper half of a 64-bit field, as a mask. -/
def highHalf : U64 := BitVec.allOnes 32 ++ 0#32

theorem highHalf_getLsbD (i : Nat) : highHalf.getLsbD i = decide (32 ≤ i ∧ i < 64) := by
  have h : highHalf.getLsbD i = (BitVec.allOnes 32 ++ 0#32).getLsbD i := rfl
  rw [h, BitVec.getLsbD_append, BitVec.getLsbD_allOnes]
  by_cases hi : i < 32
  · simp [hi]
  · have e : i - 32 < 32 ↔ i < 64 := by omega
    simp [hi, e, Nat.le_of_not_lt hi]

/-- "`B[63:32]` is zero" (R63) says that `B` is below `2 ^ 32`. -/
theorem and_highHalf_eq_zero_iff (b : U64) : b &&& highHalf = 0#64 ↔ b.toNat < 2 ^ 32 := by
  constructor
  · intro h
    apply Nat.lt_pow_two_of_testBit
    intro i hi
    by_cases hi64 : i < 64
    · have hbit := congrArg (BitVec.getLsbD · i) h
      simp only [BitVec.getLsbD_and, highHalf_getLsbD, hi, hi64, and_self, decide_true, Bool.and_true,
        BitVec.getLsbD_zero] at hbit
      exact hbit
    · exact BitVec.getLsbD_of_ge b i (Nat.le_of_not_lt hi64)
  · intro h
    apply BitVec.eq_of_getLsbD_eq
    intro i _
    rw [BitVec.getLsbD_and, highHalf_getLsbD]
    by_cases hi : 32 ≤ i
    · have hbit : b.getLsbD i = false :=
        Nat.testBit_lt_two_pow (Nat.lt_of_lt_of_le h (Nat.pow_le_pow_right (by decide) hi))
      simp [hbit]
    · simp [hi]

@[simp] theorem selects_seedRow (w : CmdWord) : selects seedRow w = true ↔ (wordOp w).toNat = 1 := by
  rw [selects_iff_fields (m := ⟨BitVec.allOnes 8, 0#64, 0#64⟩) (p := ⟨1#8, 0#64, 0#64⟩) rfl rfl]
  simp only [BitVec.and_allOnes, BitVec.and_zero, ← BitVec.toNat_inj]
  simp

@[simp] theorem selects_seedStateRow (w : CmdWord) :
    selects seedStateRow w = true ↔ (wordOp w).toNat = 2 ∧ (wordB w).toNat = 0 := by
  rw [selects_iff_fields (m := ⟨BitVec.allOnes 8, 0#64, BitVec.allOnes 64⟩) (p := ⟨2#8, 0#64, 0#64⟩) rfl rfl]
  simp only [BitVec.and_allOnes, BitVec.and_zero, ← BitVec.toNat_inj]
  simp

@[simp] theorem selects_rangeRow (w : CmdWord) :
    selects rangeRow w = true ↔ (wordOp w).toNat = 4 ∧ (wordA w).toNat = 0 ∧ (wordB w).toNat < 2 ^ 32 := by
  rw [selects_iff_fields (m := ⟨BitVec.allOnes 8, BitVec.allOnes 64, highHalf⟩) (p := ⟨4#8, 0#64, 0#64⟩) rfl rfl,
    and_highHalf_eq_zero_iff]
  simp only [BitVec.and_allOnes, ← BitVec.toNat_inj]
  simp

/-- A row that masks nothing out and whose pattern is an `op` alone, as `NEXT_U32`, `RD_STATE` and `RD_INC` have. -/
theorem selects_of_full_mask {r : Row} {op : U8}
    (hm : r.mask = packFields ⟨BitVec.allOnes 8, BitVec.allOnes 64, BitVec.allOnes 64⟩)
    (hp : r.pattern = packFields ⟨op, 0#64, 0#64⟩) (w : CmdWord) :
    selects r w = true ↔ (wordOp w).toNat = op.toNat ∧ (wordA w).toNat = 0 ∧ (wordB w).toNat = 0 := by
  rw [selects_iff_fields hm hp]
  simp only [BitVec.and_allOnes, ← BitVec.toNat_inj]
  simp

@[simp] theorem selects_nextU32Row (w : CmdWord) :
    selects nextU32Row w = true ↔ (wordOp w).toNat = 3 ∧ (wordA w).toNat = 0 ∧ (wordB w).toNat = 0 :=
  selects_of_full_mask (op := 3#8) rfl rfl w

@[simp] theorem selects_rdStateRow (w : CmdWord) :
    selects rdStateRow w = true ↔ (wordOp w).toNat = 5 ∧ (wordA w).toNat = 0 ∧ (wordB w).toNat = 0 :=
  selects_of_full_mask (op := 5#8) rfl rfl w

@[simp] theorem selects_rdIncRow (w : CmdWord) :
    selects rdIncRow w = true ↔ (wordOp w).toNat = 6 ∧ (wordA w).toNat = 0 ∧ (wordB w).toNat = 0 :=
  selects_of_full_mask (op := 6#8) rfl rfl w

/-- "The `op` byte is under every mask" (R62): a selected word has the `op` of the row's pattern. -/
theorem wordOp_eq_of_selects {r : Row} {w : CmdWord} (hr : r ∈ opcodeRows) (h : selects r w = true) :
    wordOp w = wordOp r.pattern := by
  have hmask : ∀ q ∈ opcodeRows, wordOp q.mask = BitVec.allOnes 8 := by decide
  have hand : w &&& r.mask = r.pattern := beq_iff_eq.mp h
  rw [← hand, wordOp, wordOp, BitVec.extractLsb'_and, ← wordOp, ← wordOp, hmask r hr, BitVec.and_allOnes]

/-- No word selects two rows, since the `op` byte of the pattern "differs in every row" (R62). -/
theorem opcodeRows_disjoint :
    opcodeRows.Pairwise fun r q => ∀ w, ¬ (selects r w = true ∧ selects q w = true) := by
  have hop : opcodeRows.Pairwise fun r q => wordOp r.pattern ≠ wordOp q.pattern := by decide
  refine hop.imp_of_mem fun hr hq hne w => ?_
  rintro ⟨hrw, hqw⟩
  exact hne ((wordOp_eq_of_selects hr hrw).symm.trans (wordOp_eq_of_selects hq hqw))

/-- The row of a command (R61, R62). -/
def rowOf : Instr → Row
  | .seed _ _ => seedRow
  | .seedState _ => seedStateRow
  | .nextU32 => nextU32Row
  | .range _ => rangeRow
  | .rdState => rdStateRow
  | .rdInc => rdIncRow

/-- The command of the same row with its operands read from a word, at the bit positions of R61 and R69. -/
def readOperands (i : Instr) (w : CmdWord) : Instr :=
  match i with
  | .seed _ _ => .seed (wordA w) (wordB w)
  | .seedState _ => .seedState (wordA w)
  | .nextU32 => .nextU32
  | .range _ => .range (wordBound w)
  | .rdState => .rdState
  | .rdInc => .rdInc

/-- A word that decodes to a command selects its row. -/
theorem selects_rowOf_of_decode {i : Instr} {w : CmdWord} (h : decode w = .command i) :
    selects (rowOf i) w = true := by
  unfold decode at h
  split_ifs at h <;> cases h <;> assumption

/-- A word that selects a command's row decodes to that command, with the word's operands: by the `selects_…Row` lemmas
the rows tested before it ask for another `op`. -/
theorem decode_of_selects_rowOf {i : Instr} {w : CmdWord} (h : selects (rowOf i) w = true) :
    decode w = .command (readOperands i w) := by
  cases i <;> simp_all [decode, rowOf, readOperands]

/-- A row selects exactly the words that decode to its command with the word's operands. -/
theorem mask_eq_pattern_iff_decode {i : Instr} {w : CmdWord} (hi : readOperands i w = i) :
    w &&& (rowOf i).mask = (rowOf i).pattern ↔ decode w = .command i := by
  constructor
  · intro h
    have hdecode := decode_of_selects_rowOf (i := i) (beq_iff_eq.mpr h)
    rwa [hi] at hdecode
  · intro h
    exact beq_iff_eq.mp (selects_rowOf_of_decode h)

/-- Settles O34: each row's clause is `mask_eq_pattern_iff_decode` for its command, and the `op` byte keeps the rows
apart. -/
theorem decodeTableRowsSelectTheirCommands : Obligations.DecodeTableRowsSelectTheirCommands := by
  unfold Obligations.DecodeTableRowsSelectTheirCommands
  refine ⟨fun w => ⟨?seed, ?seedState, ?nextU32, ?range, ?rdState, ?rdInc⟩, opcodeRows_disjoint⟩
  case seed => exact mask_eq_pattern_iff_decode (i := .seed (wordA w) (wordB w)) rfl
  case seedState => exact mask_eq_pattern_iff_decode (i := .seedState (wordA w)) rfl
  case nextU32 => exact mask_eq_pattern_iff_decode (i := .nextU32) rfl
  case range => exact mask_eq_pattern_iff_decode (i := .range (wordBound w)) rfl
  case rdState => exact mask_eq_pattern_iff_decode (i := .rdState) rfl
  case rdInc => exact mask_eq_pattern_iff_decode (i := .rdInc) rfl

end Sys2Proof
end

section
/-!
### Illegal words (spec/30_encoding.md R63, R65, spec/60_exceptions.md R152)
-/

namespace Sys2Proof

/-- A claim about every row of R62 is a claim about each of the six. -/
theorem forall_opcodeRows {P : Row → Prop} :
    (∀ r ∈ opcodeRows, P r) ↔
      P seedRow ∧ P seedStateRow ∧ P nextU32Row ∧ P rangeRow ∧ P rdStateRow ∧ P rdIncRow := by
  simp [opcodeRows]

/-- A word is illegal when no row selects it (R64). -/
theorem decode_illegal_iff_no_row (w : CmdWord) :
    (∃ why, decode w = .illegal why) ↔ ∀ r ∈ opcodeRows, ¬ selects r w = true := by
  rw [forall_opcodeRows]
  constructor
  · rintro ⟨why, h⟩
    unfold decode at h
    split_ifs at h with h1 h2 h3 h4 h5 h6
    exact ⟨h1, h2, h3, h4, h5, h6⟩
  · rintro ⟨h1, h2, h3, h4, h5, h6⟩
    exact ⟨illegalReason w, by
      rw [decode, if_neg h1, if_neg h2, if_neg h3, if_neg h4, if_neg h5, if_neg h6]⟩

/-- The illegal words by the numbers in their fields (R63, R65). -/
theorem decode_illegal_iff_fields (w : CmdWord) :
    (∃ why, decode w = .illegal why) ↔
      (wordOp w).toNat = 0 ∨ 7 ≤ (wordOp w).toNat ∨ ((wordOp w).toNat = 2 ∧ (wordB w).toNat ≠ 0) ∨
        ((wordOp w).toNat = 4 ∧ ((wordA w).toNat ≠ 0 ∨ 2 ^ 32 ≤ (wordB w).toNat)) ∨
        (((wordOp w).toNat = 3 ∨ (wordOp w).toNat = 5 ∨ (wordOp w).toNat = 6) ∧
          ((wordA w).toNat ≠ 0 ∨ (wordB w).toNat ≠ 0)) := by
  rw [decode_illegal_iff_no_row, forall_opcodeRows, selects_seedRow, selects_seedStateRow, selects_nextU32Row,
    selects_rangeRow, selects_rdStateRow, selects_rdIncRow]
  omega

end Sys2Proof

namespace Sys2Proof.Machine

/-- With no `rst`, an idle engine consumes the word on `CMD` and accepts it (R54, R57). -/
theorem step_of_presented_word {s : State} {w : CmdWord} {ws : List CmdWord} (hrst : rstRaised s = false)
    (hidle : s.phase = .idle) (hcmd : s.cmd = w :: ws) :
    step s = acceptWord w (writeCmd ws (passBoundary s)) := by
  rw [step_of_no_rst hrst, engineStep, passBoundary_phase, hidle, passBoundary_cmd, hcmd]

/-- An illegal word is rejected, whatever the reason (R152). -/
theorem acceptWord_of_illegal {w : CmdWord} {why : Illegal} (h : decode w = .illegal why) (s : State) :
    acceptWord w s = .next (reject .illegalCommand s) := by
  rw [acceptWord, h]

/-- Settles O35: no row selects the word exactly when its fields are those of R63 and R65, and the step that consumes
such a word rejects it. -/
theorem illegalWordsAreAnsweredAndChangeNothing : Obligations.IllegalWordsAreAnsweredAndChangeNothing := by
  unfold Obligations.IllegalWordsAreAnsweredAndChangeNothing
  intro w
  refine ⟨?_, fun why s ws hillegal hidle hrst hcmd => ?_⟩
  · rw [← wordOp_toNat, ← wordA_toNat, ← wordB_toNat]
    exact decode_illegal_iff_fields w
  · rw [step_of_presented_word hrst hidle hcmd, acceptWord_of_illegal hillegal]
    rfl

end Sys2Proof.Machine
end

section
/-!
### Seeding (spec/40_seed.md R90 to R92)

The effect of a command accepted in `IDLE`, and the two branches of `SEED` by the number of its sequence.
-/

namespace Sys2Proof.Machine

/-- An idle engine accepts every command (R57). -/
theorem exec_of_idle {s : State} (h : s.phase = .idle) (i : Instr) : exec i s = .next (commandEffect i s) :=
  (exec_eq_whenIdle i s).trans (whenIdle_of_idle h)

@[simp] theorem sequenceIsOdd_iff (b : U64) : sequenceIsOdd b = true ↔ b.toNat % 2 = 1 :=
  beq_iff_eq

theorem seedEffect_of_odd {b : U64} (h : b.toNat % 2 = 1) (a : U64) (s : State) :
    seedEffect a b s = respond .ok 0#64 (writeInc b (writeState a s)) :=
  if_pos ((sequenceIsOdd_iff b).mpr h)

theorem seedEffect_of_even {b : U64} (h : b.toNat % 2 = 0) (a : U64) (s : State) :
    seedEffect a b s = reject .invalidSequence s := by
  have hnotOdd : ¬ sequenceIsOdd b = true := by
    rw [sequenceIsOdd_iff]
    omega
  exact if_neg hnotOdd

/-- Settles O5: an idle engine accepts `SEED`, and the parity of the sequence chooses between writing both registers
and rejecting. -/
theorem seedLoadsBothRegistersOrRejects : Obligations.SeedLoadsBothRegistersOrRejects := by
  unfold Obligations.SeedLoadsBothRegistersOrRejects
  intro a b s hidle
  rw [exec_of_idle hidle, commandEffect]
  constructor
  · intro hodd
    rw [seedEffect_of_odd hodd]
    rfl
  · intro heven
    rw [seedEffect_of_even heven]
    rfl

/-- Settles O6: an idle engine accepts `SEED_STATE`, whose effect has no check and writes `Config.defaultInc`, the
literal of R91. -/
theorem seedStateLoadsDefaultIncrement : Obligations.SeedStateLoadsDefaultIncrement := by
  unfold Obligations.SeedStateLoadsDefaultIncrement
  intro a s hidle
  rw [exec_of_idle hidle, commandEffect, seedStateEffect]
  rfl

end Sys2Proof.Machine
end

section
/-!
### The core step (spec/41_core_step.md R100 to R103)

The advance, the folded word, the rotation amount and the rotation as numbers; then `NEXT_U32`, field by field.
-/

namespace Sys2Proof.Machine

/-- R101 with one reduction at the end. -/
theorem adv_toNat (s i : U64) : (adv s i).toNat = (s.toNat * 6364136223846793005 + i.toNat) % 2 ^ 64 := by
  have hmult : Config.mult.toNat = 6364136223846793005 := rfl
  rw [adv, BitVec.toNat_add, BitVec.toNat_mul, Nat.mod_add_mod, hmult, Nat.mul_comm]

/-- For a fixed state, different increments give different next states. -/
@[simp] theorem adv_right_inj (s i j : U64) : adv s i = adv s j ↔ i = j :=
  BitVec.add_right_inj (Config.mult * s)

/-- Settles O10: `adv_toNat`, and the reduction after the product is absorbed by the one at the end. -/
theorem advanceIsExactModulo : Obligations.AdvanceIsExactModulo := by
  unfold Obligations.AdvanceIsExactModulo
  intro s i
  rw [Nat.mod_add_mod]
  exact ⟨adv_toNat s i, adv_toNat s i⟩

theorem xsh_toNat (s : U64) : (xsh s).toNat = (s.toNat / 2 ^ 18 ^^^ s.toNat) / 2 ^ 27 % 2 ^ 32 := by
  simp only [xsh, Config.sh1, Config.sh2, BitVec.toNat_setWidth, BitVec.toNat_ushiftRight, BitVec.toNat_xor,
    Nat.shiftRight_eq_div_pow]

theorem rot_toNat (s : U64) : rot s = s.toNat / 2 ^ 59 := by
  rw [rot, BitVec.toNat_ushiftRight, Nat.shiftRight_eq_div_pow]
  rfl

theorem rot_lt (s : U64) : rot s < 32 := by
  have hs := s.isLt
  rw [rot_toNat]
  omega

/-- Shifting left by `32 - r` drops the upper `32 - r` bits and moves the lower `r` above them. -/
theorem shiftLeft_sub_toNat (x : U32) {r : Nat} (h : r ≤ 32) :
    (x <<< (32 - r)).toNat = x.toNat % 2 ^ r * 2 ^ (32 - r) := by
  have hpow : 2 ^ 32 = 2 ^ r * 2 ^ (32 - r) := by rw [← Nat.pow_add, Nat.add_sub_cancel' h]
  rw [BitVec.toNat_shiftLeft, Nat.shiftLeft_eq, hpow, Nat.mul_mod_mul_right]

/-- R105 as a number: the upper part of `x` moves down, and the lower `r` bits land above it. -/
theorem ror32_toNat (x : U32) {r : Nat} (h : r < 32) :
    (ror32 x r).toNat = x.toNat / 2 ^ r + x.toNat % 2 ^ r * 2 ^ (32 - r) := by
  obtain rfl | hpos := Nat.eq_zero_or_pos r
  · simp [ror32, Nat.mod_one]
  · have hamount : (32 - r) % 32 = 32 - r := Nat.mod_eq_of_lt (by omega)
    have hpow : 2 ^ r * 2 ^ (32 - r) = 2 ^ 32 := by rw [← Nat.pow_add, Nat.add_sub_cancel' h.le]
    have hfits : x.toNat / 2 ^ r < 2 ^ (32 - r) := Nat.div_lt_of_lt_mul (hpow ▸ x.isLt)
    rw [ror32, hamount, BitVec.toNat_or, shiftLeft_sub_toNat x h.le, BitVec.toNat_ushiftRight,
      Nat.shiftRight_eq_div_pow, Nat.or_comm, ← Nat.shiftLeft_eq, ← Nat.shiftLeft_add_eq_or_of_lt hfits,
      Nat.add_comm]

theorem out_toNat (s : U64) :
    (out s).toNat = (xsh s).toNat / 2 ^ rot s + (xsh s).toNat % 2 ^ rot s * 2 ^ (32 - rot s) :=
  ror32_toNat (xsh s) (rot_lt s)

/-- Settles O11: `rot_lt` bounds the amount, and `out_toNat` is the rotation with the folded word and the amount as
numbers. -/
theorem outputIsRotatedXorshift : Obligations.OutputIsRotatedXorshift := by
  unfold Obligations.OutputIsRotatedXorshift
  intro s
  refine ⟨rot_toNat s ▸ rot_lt s, ?_⟩
  rw [out_toNat, xsh_toNat, rot_toNat]

section
variable (s : State)

@[simp] theorem nextU32Effect_state : (nextU32Effect s).state = adv s.state s.inc := rfl

@[simp] theorem nextU32Effect_inc : (nextU32Effect s).inc = s.inc := rfl

@[simp] theorem nextU32Effect_rsp :
    (nextU32Effect s).rsp = s.rsp ++ [responseWord .ok ((out s.state).setWidth 64)] := rfl

end

/-- Settles O9: an idle engine accepts `NEXT_U32`, whose effect is the spec's five steps with `adv`, `xsh`, `rot` and
`ror32` written out. -/
theorem nextU32AnswersOldOutputAndAdvances : Obligations.NextU32AnswersOldOutputAndAdvances := by
  unfold Obligations.NextU32AnswersOldOutputAndAdvances
  intro s hidle
  rw [exec_of_idle hidle, commandEffect]
  rfl

/-- Settles O12: the response of `NEXT_U32` reads `state` alone, which the accepted `SEED` made `a`; `inc` enters only
the advance, which is injective in it. -/
theorem outputComesFromTheOldState : Obligations.OutputComesFromTheOldState := by
  unfold Obligations.OutputComesFromTheOldState
  constructor
  · intro a b s hidle hodd
    have hseed : exec (.seed a b) s = .next (respond .ok 0#64 (writeInc b (writeState a s))) := by
      rw [exec_of_idle hidle, commandEffect, seedEffect_of_odd hodd]
    refine ⟨_, _, hseed, exec_of_idle (by simpa using hidle) .nextU32, ?_⟩
    simp [commandEffect]
  · intro s v hidle
    refine ⟨_, _, exec_of_idle hidle .nextU32, exec_of_idle (s := { s with inc := v }) hidle .nextU32, rfl, ?_⟩
    intro hne hstate
    exact hne ((adv_right_inj s.state s.inc v).mp hstate).symm

end Sys2Proof.Machine
end

section
/-!
### The range reducer's steps (spec/42_range.md R113 to R116, R120)

The micro-step by the number of its draw, and every change of `phase` that a step can make, first from `LOOP` and then
from `IDLE`.
-/

namespace Sys2Proof.Machine

/-- In `LOOP` with no `rst`, the micro-step is the only step (R114). -/
theorem step_of_loop {s : State} {b q : U32} (hrst : rstRaised s = false) (hloop : s.phase = .loop b q) :
    step s = .next (microStep b q (passBoundary s)) := by
  rw [step_of_no_rst hrst, engineStep, passBoundary_phase, hloop]

@[simp] theorem drawOutput_passBoundary (s : State) : drawOutput (passBoundary s) = out s.state := rfl

/-- A draw at or above the threshold ends the `RANGE` with the reduced draw (R115). -/
theorem microStep_of_accepted {q : U32} {s : State} (h : q.toNat ≤ (drawOutput s).toNat) (b : U32) :
    microStep b q s =
      writePhase .idle (respond .ok (zext64 (reduce (drawOutput s) b)) (drawAdvance s)) :=
  if_pos (decide_eq_true h)

/-- A draw below the threshold leaves only its advance (R116). -/
theorem microStep_of_rejected {q : U32} {s : State} (h : (drawOutput s).toNat < q.toNat) (b : U32) :
    microStep b q s = drawAdvance s :=
  if_neg (by simpa [drawAccepted] using h)

/-- The `data` of an accepted draw is its remainder, "zero-extended" (R68). -/
theorem zext64_reduce (r b : U32) : zext64 (reduce r b) = BitVec.ofNat 64 (r.toNat % b.toNat) := by
  rw [zext64, ← BitVec.ofNat_toNat, reduce_toNat]

/-- Settles O19: the step is the micro-step, and the number of the draw chooses between R115 and R116. -/
theorem microStepDrawsOnce : Obligations.MicroStepDrawsOnce := by
  unfold Obligations.MicroStepDrawsOnce
  intro s b t hloop hrst
  rw [step_of_loop hrst hloop]
  constructor
  · intro haccepted
    rw [microStep_of_accepted (s := passBoundary s) haccepted, zext64_reduce, drawOutput_passBoundary]
    rfl
  · intro hrejected
    rw [microStep_of_rejected (s := passBoundary s) hrejected]
    rfl

/-- A step from `LOOP` ends the loop, by `rst` or by an accepted draw, or stays with both latches after a rejected
draw. -/
theorem step_phase_of_loop {s t : State} {b q : U32} (hloop : s.phase = .loop b q) (h : step s = .next t) :
    (t.phase = .idle ∧ (rstRaised s = true ∨ q.toNat ≤ (out s.state).toNat)) ∨
    (t.phase = .loop b q ∧ rstRaised s = false ∧ (out s.state).toNat < q.toNat) := by
  cases hrst : rstRaised s with
  | true =>
    rw [step, if_pos hrst] at h
    cases h
    exact .inl ⟨rfl, .inl rfl⟩
  | false =>
    rw [step_of_loop hrst hloop] at h
    cases h
    obtain haccepted | hrejected := le_or_gt q.toNat (out s.state).toNat
    · refine .inl ⟨?_, .inr haccepted⟩
      rw [microStep_of_accepted (s := passBoundary s) haccepted, writePhase_phase]
    · refine .inr ⟨?_, rfl, hrejected⟩
      rw [microStep_of_rejected (s := passBoundary s) hrejected, drawAdvance_phase, passBoundary_phase, hloop]

/-- Of the six commands only `RANGE` with a non-zero bound writes `phase` (R113). -/
theorem commandEffect_phase_cases (i : Instr) (s : State) :
    (commandEffect i s).phase = s.phase ∨
    ∃ b, i = .range b ∧ b ≠ 0#32 ∧ (commandEffect i s).phase = .loop b (threshold b) := by
  cases i with
  | seed a b => rcases seedEffect_cases a b s with ⟨_, e⟩ | ⟨_, e⟩ <;> simp [commandEffect, e]
  | seedState a => exact .inl rfl
  | nextU32 => exact .inl rfl
  | range b =>
    obtain ⟨_, e⟩ | ⟨hb, e⟩ := rangeEffect_cases b s
    · exact .inl (by rw [commandEffect, e, respond_phase])
    · exact .inr ⟨b, rfl, hb, by rw [commandEffect, e, writePhase_phase]⟩
  | rdState => exact .inl rfl
  | rdInc => exact .inl rfl

/-- An idle engine that accepts a word stays idle, unless the word is a `RANGE` with a non-zero bound. -/
theorem acceptWord_phase_of_idle {s t : State} {w : CmdWord} (hidle : s.phase = .idle)
    (h : acceptWord w s = .next t) :
    t.phase = .idle ∨
    ∃ b, decode w = .command (.range b) ∧ b ≠ 0#32 ∧ t.phase = .loop b (threshold b) := by
  obtain ⟨i, hdecode, hexec⟩ | ⟨_, _, rfl⟩ := acceptWord_next_cases h
  · rw [exec_of_idle hidle] at hexec
    cases hexec
    obtain hkept | ⟨b, rfl, hb, hphase⟩ := commandEffect_phase_cases i s
    · exact .inl (hkept.trans hidle)
    · exact .inr ⟨b, hdecode, hb, hphase⟩
  · exact .inl hidle

/-- A step from `IDLE` stays there, unless it accepts a `RANGE` with a non-zero bound: then it latches that bound and
its threshold. -/
theorem step_phase_of_idle {s t : State} (hidle : s.phase = .idle) (h : step s = .next t) :
    t.phase = .idle ∨
    (rstRaised s = false ∧ ∃ b w ws, s.cmd = w :: ws ∧ decode w = .command (.range b) ∧ b ≠ 0#32 ∧
      t.phase = .loop b (threshold b)) := by
  obtain ⟨_, rfl⟩ | ⟨_, b, q, hloop, _⟩ | ⟨_, _, _, rfl⟩ | ⟨hrst, _, w, ws, hcmd, haccept⟩ := step_next_cases h
  · exact .inl rfl
  · rw [hidle] at hloop
    cases hloop
  · exact .inl hidle
  · obtain hstays | ⟨b, hdecode, hb, hphase⟩ :=
      acceptWord_phase_of_idle (s := writeCmd ws (passBoundary s)) hidle haccept
    · exact .inl hstays
    · exact .inr ⟨hrst, b, w, ws, hcmd, hdecode, hb, hphase⟩

/-- Settles O20: the arc out of `IDLE` is `step_phase_of_idle`, the three out of `LOOP` are `step_phase_of_loop`. -/
theorem phaseChangesOnlyAsTheReducerSays : Obligations.PhaseChangesOnlyAsTheReducerSays := by
  unfold Obligations.PhaseChangesOnlyAsTheReducerSays
  intro s t hstep
  refine ⟨fun b q hidle ht => ?enters, fun b q b' q' hloop ht => ?stays, fun b q hloop ht => ?leaves⟩
  case enters =>
    obtain hstays | ⟨hrst, c, w, ws, hcmd, hdecode, hc, hphase⟩ := step_phase_of_idle hidle hstep
    · cases ht.symm.trans hstays
    · cases ht.symm.trans hphase
      exact ⟨hrst, hc, rfl, w, ws, hcmd, hdecode⟩
  case stays =>
    obtain ⟨hphase, _⟩ | ⟨hphase, hrst, hrejected⟩ := step_phase_of_loop hloop hstep
    · cases ht.symm.trans hphase
    · cases ht.symm.trans hphase
      exact ⟨hrst, hrejected, rfl, rfl⟩
  case leaves =>
    obtain ⟨_, hends⟩ | ⟨hphase, _, _⟩ := step_phase_of_loop hloop hstep
    · exact hends
    · cases ht.symm.trans hphase

end Sys2Proof.Machine
end

section
/-!
### State read-out (spec/43_inspect.md R125, R126)

Each of the two commands is one response; and the lowest bit of a response word is the lowest bit of its `data`.
-/

namespace Sys2Proof.Machine

/-- Bit 0 of a response word is the parity of its `data` (R66). -/
theorem responseWord_getLsbD_zero (st : Status) (d : U64) :
    (responseWord st d).getLsbD 0 = true ↔ d.toNat % 2 = 1 := by
  rw [responseWord, BitVec.getLsbD_append, if_pos (by decide), BitVec.getLsbD, Nat.testBit_zero, decide_eq_true_iff]

@[simp] theorem incIsOdd_iff (s : State) : incIsOdd s = true ↔ s.inc.toNat % 2 = 1 :=
  beq_iff_eq

/-- Settles O28: an idle engine accepts `RD_STATE`, whose effect is the response alone. -/
theorem rdStateAnswersState : Obligations.RdStateAnswersState := by
  unfold Obligations.RdStateAnswersState
  intro s hidle
  rw [exec_of_idle hidle, commandEffect, rdStateEffect]
  rfl

/-- Settles O29: an idle engine accepts `RD_INC`, whose effect is the response alone; its lowest bit is the parity of
`inc`, which the invariant keeps odd. -/
theorem rdIncAnswersInc : Obligations.RdIncAnswersInc := by
  unfold Obligations.RdIncAnswersInc
  intro s hidle
  constructor
  · rw [exec_of_idle hidle, commandEffect, rdIncEffect]
    rfl
  · intro hinv
    obtain ⟨hodd, _⟩ := hinv
    exact (responseWord_getLsbD_zero .ok s.inc).mpr ((incIsOdd_iff s).mp hodd)

end Sys2Proof.Machine
end

section
/-!
### The event `rst` (spec/70_reset_and_hazards.md R175, R177)
-/

namespace Sys2Proof.Machine

/-- Where the environment raises `rst`, the step is the reset event, whatever the phase (R157, R176). -/
theorem step_of_rst {s : State} (hrst : rstRaised s = true) : step s = .next (resetEvent (passBoundary s)) :=
  if_pos hrst

/-- A reset leaves the last command without an answer when it abandons a `RANGE` or takes a presented word
(R157, R177). -/
theorem unansweredAfterReset_eq (withdrawn : Bool) (s : State) :
    unansweredAfterReset withdrawn s = (s.unanswered || s.phase != .idle || (withdrawn && !s.cmd.isEmpty)) := by
  rw [unansweredAfterReset, Bool.and_comm]

/-- Settles O2: the step is the reset event. The value loaded into `state` and the choice about the presented word are
the configuration's for this reset; only `cmd` and `unanswered` depend on that choice, and every other field is the
event's own. -/
theorem rstRestoresResetValuesWithoutAnswer : Obligations.RstRestoresResetValuesWithoutAnswer := by
  unfold Obligations.RstRestoresResetValuesWithoutAnswer
  intro s hrst
  refine ⟨Config.resetState s.resets, Config.presentedWithdrawn s.resets, ?_⟩
  rw [step_of_rst hrst]
  exact congrArg _ <| State.ext_fields
    (h1 := rfl) (h2 := rfl) (h3 := rfl)
    (h4 := cmdAfterReset_eq _ s.cmd)
    (h5 := rfl) (h6 := rfl)
    (h7 := unansweredAfterReset_eq _ s)
    (h8 := rfl)

end Sys2Proof.Machine
end

section
/-!
### Words and commands, both ways (spec/30_encoding.md R60 to R65, spec/92_eei_decisions.md D5)

The word of a command by its fields; from the rows of R62 then follow decode after encode and encode after decode.
-/

namespace Sys2Proof

@[simp] theorem wordOp_encode (i : Instr) : wordOp (encode i) = (instrFields i).op :=
  wordOp_packFields (instrFields i)

@[simp] theorem wordA_encode (i : Instr) : wordA (encode i) = (instrFields i).a :=
  wordA_packFields (instrFields i)

@[simp] theorem wordB_encode (i : Instr) : wordB (encode i) = (instrFields i).b :=
  wordB_packFields (instrFields i)

/-- The bound of a word is the lower half of its `B` field (R61). -/
theorem wordBound_eq_setWidth (w : CmdWord) : wordBound w = (wordB w).setWidth 32 :=
  BitVec.eq_of_toNat_eq (by simp [wordBound, wordB])

/-- The word of a command selects the command's row. -/
theorem selects_rowOf_encode (i : Instr) : selects (rowOf i) (encode i) = true := by
  cases i with
  | seed a b => simp [rowOf, instrFields]
  | seedState a => simp [rowOf, instrFields]
  | nextU32 => simp [rowOf, instrFields]
  | range bound =>
    have hlow := Nat.mod_le bound.toNat (2 ^ 64)
    simpa [rowOf, instrFields] using hlow.trans_lt bound.isLt
  | rdState => simp [rowOf, instrFields]
  | rdInc => simp [rowOf, instrFields]

/-- The operands read from the word of a command are the command's own. -/
@[simp] theorem readOperands_encode (i : Instr) : readOperands i (encode i) = i := by
  cases i with
  | range bound => simp [readOperands, instrFields, wordBound_eq_setWidth]
  | _ => simp [readOperands, instrFields]

@[simp] theorem decode_encode (i : Instr) : decode (encode i) = .command i := by
  rw [decode_of_selects_rowOf (selects_rowOf_encode i), readOperands_encode]

/-- Settles O36: the word of a command selects the command's row, and the operands read from it are the command's. -/
theorem decodeOfEncodeIsTheCommand : Obligations.DecodeOfEncodeIsTheCommand := by
  unfold Obligations.DecodeOfEncodeIsTheCommand
  exact fun i _ => decode_encode i

/-- A word that selects a command's row has the fields which the command with the word's operands is spelled with: the
masks of R62 leave nothing else free. -/
theorem fieldsOf_eq_of_selects {i : Instr} {w : CmdWord} (h : selects (rowOf i) w = true) :
    fieldsOf w = instrFields (readOperands i w) := by
  cases i with
  | range bound =>
    obtain ⟨hop, ha, hb⟩ := (selects_rangeRow w).mp h
    have hbound : (wordB w).toNat = (wordB w).toNat % 2 ^ 32 % 2 ^ 64 := by omega
    simpa [fieldsOf, readOperands, instrFields, ← BitVec.toNat_inj, wordBound_eq_setWidth, hop, ha] using hbound
  | _ => simp_all [rowOf, fieldsOf, readOperands, instrFields, ← BitVec.toNat_inj]

theorem encode_of_decode {w : CmdWord} {i : Instr} (h : decode w = .command i) : encode i = w := by
  have hselects := selects_rowOf_of_decode h
  have hoperands : readOperands i w = i :=
    Decoded.command.inj ((decode_of_selects_rowOf hselects).symm.trans h)
  rw [encode, ← hoperands, ← fieldsOf_eq_of_selects hselects, packFields_fieldsOf]

/-- Settles O37: a decoded word selects the row of its command, and such a word has exactly the fields that encoding
writes. -/
theorem encodeOfDecodeIsTheWord : Obligations.EncodeOfDecodeIsTheWord := by
  unfold Obligations.EncodeOfDecodeIsTheWord
  exact fun w i h => encode_of_decode h

/-- Settles O39: six of the words are what `encode` writes for their commands; the two others select no row. -/
theorem writtenOutWordsDecode : Obligations.WrittenOutWordsDecode := by
  unfold Obligations.WrittenOutWordsDecode
  exact ⟨decode_encode (.seed 42#64 5#64), decode_encode (.seedState 42#64), decode_encode .nextU32,
    decode_encode (.range 0xFFFFFFFF#32), decode_encode .rdState, decode_encode .rdInc, by decide, by decide⟩

end Sys2Proof
end

section
/-!
### Stored words (spec/20_memory.md R44, spec/30_encoding.md section 7)

Little-endian bytes spell the number of the word they were taken from, so a stored word is read back.
-/

namespace Sys2Proof

theorem bytesNat_append (xs ys : List U8) :
    bytesNat (xs ++ ys) = bytesNat xs + 256 ^ xs.length * bytesNat ys := by
  induction xs with
  | nil => simp [bytesNat]
  | cons x xs ih =>
    simp only [List.cons_append, bytesNat, ih, List.length_cons]
    ring

/-- The lowest `n` bytes of a word, lowest first, spell the word modulo `256 ^ n`. -/
theorem bytesNat_map_extract {m : Nat} (w : BitVec m) (n : Nat) :
    bytesNat ((List.range n).map fun k => w.extractLsb' (8 * k) 8) = w.toNat % 256 ^ n := by
  induction n with
  | zero => simp [bytesNat, Nat.mod_one]
  | succ n ih =>
    have hpow : 256 ^ n = 2 ^ (8 * n) := by rw [Nat.pow_mul]
    rw [List.range_succ, List.map_append, bytesNat_append, ih, List.length_map, List.length_range, Nat.pow_succ,
      Nat.mod_mul]
    simp [bytesNat, Nat.shiftRight_eq_div_pow, hpow]

@[simp] theorem wordBytes_length (w : CmdWord) : (wordBytes w).length = 17 := by
  simp [wordBytes]

@[simp] theorem bytesNat_wordBytes (w : CmdWord) : bytesNat (wordBytes w) = w.toNat := by
  rw [wordBytes, bytesNat_map_extract]
  exact Nat.mod_eq_of_lt w.isLt

/-- Stored bytes that spell a command word decode to it, whatever follows them. -/
theorem decodeBytes_wordBytes_append_eq_command_iff {w : CmdWord} {i : Instr} {rest tail : List U8} :
    decodeBytes (wordBytes w ++ rest) = .command i tail ↔ decode w = .command i ∧ rest = tail := by
  have hlength : ¬ (wordBytes w ++ rest).length < 17 := by simp
  have htake : (wordBytes w ++ rest).take 17 = wordBytes w := List.take_left' (wordBytes_length w)
  have hdrop : (wordBytes w ++ rest).drop 17 = rest := List.drop_left' (wordBytes_length w)
  rw [decodeBytes, if_neg hlength, htake, hdrop, bytesNat_wordBytes, BitVec.ofNat_toNat, BitVec.setWidth_eq]
  cases decode w <;> simp

/-- Settles O38: a stored command is the 17 bytes of its word, and `decode_encode` reads the word. -/
theorem storedCommandIsReadBack : Obligations.StoredCommandIsReadBack := by
  unfold Obligations.StoredCommandIsReadBack
  exact fun i rest => ⟨wordBytes_length (encode i), bytesNat_wordBytes (encode i),
    decodeBytes_wordBytes_append_eq_command_iff.mpr ⟨decode_encode i, rfl⟩⟩

/-- What the decoder reads from a row of the opcode table is what its 136-bit word decodes to. -/
theorem decode_of_decodeTableWord {nbits w : Nat} {i : Instr} (h : decodeTableWord nbits w = some i) :
    decode (tableWord nbits w) = .command i := by
  unfold decodeTableWord at h
  split_ifs at h
  split at h
  · rename_i j rest hbytes
    cases h
    rw [← List.append_nil (wordBytes _)] at hbytes
    exact (decodeBytes_wordBytes_append_eq_command_iff.mp hbytes).1
  · cases h
  · cases h

end Sys2Proof
end

section
/-!
### Everything a command and a step can do

One inversion for an accepted command and one for a step with no `rst`, each saying the whole next state; the
statements about single steps below are read off them.
-/

namespace Sys2Proof.Machine

/-- The command seeds the engine with `a` and `j`: a `SEED` with an odd sequence, or a `SEED_STATE` (R90, R91). -/
def SeedsWith (i : Instr) (a j : U64) : Prop :=
  (i = .seed a j ∧ j.toNat % 2 = 1) ∨ (i = .seedState a ∧ j = Config.defaultInc)

theorem defaultInc_odd : Config.defaultInc.toNat % 2 = 1 := rfl

theorem SeedsWith.odd {i : Instr} {a j : U64} (h : SeedsWith i a j) : j.toNat % 2 = 1 := by
  obtain ⟨_, hodd⟩ | ⟨_, rfl⟩ := h
  · exact hodd
  · exact defaultInc_odd

/-- The command answers `d` and writes nothing: a `RANGE` with bound 0, or a read-out (R113, R125, R126). -/
def AnswersWith (s : State) (i : Instr) (d : U64) : Prop :=
  (i = .range 0#32 ∧ d = 0#64) ∨ (i = .rdState ∧ d = s.state) ∨ (i = .rdInc ∧ d = s.inc)

/-- What the command `i`, accepted in `s`, can leave behind. -/
inductive CommandOutcome (s : State) : Instr → State → Prop
  | seeds {i : Instr} (a j : U64) (h : SeedsWith i a j) :
      CommandOutcome s i (respond .ok 0#64 (writeInc j (writeState a s)))
  | rejects (a b : U64) (heven : b.toNat % 2 = 0) : CommandOutcome s (.seed a b) (reject .invalidSequence s)
  | draws : CommandOutcome s .nextU32 (respond .ok (zext64 (drawOutput s)) (drawAdvance s))
  | answers {i : Instr} (d : U64) (h : AnswersWith s i d) : CommandOutcome s i (respond .ok d s)
  | enters (b : U32) (hb : b ≠ 0#32) : CommandOutcome s (.range b) (writePhase (.loop b (threshold b)) s)

theorem commandOutcome (i : Instr) (s : State) : CommandOutcome s i (commandEffect i s) := by
  cases i with
  | seed a b =>
    rw [commandEffect]
    obtain heven | hodd := Nat.mod_two_eq_zero_or_one b.toNat
    · rw [seedEffect_of_even heven]
      exact .rejects a b heven
    · rw [seedEffect_of_odd hodd]
      exact .seeds a b (.inl ⟨rfl, hodd⟩)
  | seedState a => exact .seeds a _ (.inr ⟨rfl, rfl⟩)
  | nextU32 => exact .draws
  | range b =>
    rw [commandEffect]
    obtain ⟨rfl, e⟩ | ⟨hb, e⟩ := rangeEffect_cases b s
    · rw [e]
      exact .answers _ (.inl ⟨rfl, rfl⟩)
    · rw [e]
      exact .enters b hb
  | rdState => exact .answers _ (.inr (.inl ⟨rfl, rfl⟩))
  | rdInc => exact .answers _ (.inr (.inr ⟨rfl, rfl⟩))

/-- An accepted command answers once and keeps `phase`, or it enters `LOOP` and answers nothing yet (R113). -/
theorem CommandOutcome.answers_or_enters {s t : State} {i : Instr} (h : CommandOutcome s i t) :
    t.cmd = s.cmd ∧
      ((t.phase = s.phase ∧ t.unanswered = false ∧ ∃ r, t.rsp = s.rsp ++ [r]) ∨
        (∃ b q, t.phase = .loop b q) ∧ t.rsp = s.rsp) := by
  cases h with
  | enters b _ => exact ⟨rfl, .inr ⟨⟨b, threshold b, rfl⟩, rfl⟩⟩
  | _ => exact ⟨rfl, .inl ⟨rfl, rfl, _, rfl⟩⟩

/-- What a step with no `rst` can leave behind. -/
inductive StepOutcome (s : State) : State → Prop
  | idles (hidle : s.phase = .idle) (hcmd : s.cmd = []) : StepOutcome s (passBoundary s)
  | runs {t : State} (hidle : s.phase = .idle) (w : CmdWord) (ws : List CmdWord) (hcmd : s.cmd = w :: ws)
      (i : Instr) (hdecode : decode w = .command i) (h : CommandOutcome (writeCmd ws (passBoundary s)) i t) :
      StepOutcome s t
  | rejectsWord (hidle : s.phase = .idle) (w : CmdWord) (ws : List CmdWord) (hcmd : s.cmd = w :: ws)
      (why : Illegal) (hdecode : decode w = .illegal why) :
      StepOutcome s (reject .illegalCommand (writeCmd ws (passBoundary s)))
  | ends (b q : U32) (hloop : s.phase = .loop b q) (haccepted : q.toNat ≤ (out s.state).toNat) :
      StepOutcome s (writePhase .idle (respond .ok (zext64 (reduce (out s.state) b)) (drawAdvance (passBoundary s))))
  | redraws (b q : U32) (hloop : s.phase = .loop b q) (hrejected : (out s.state).toNat < q.toNat) :
      StepOutcome s (drawAdvance (passBoundary s))

theorem stepOutcome_of_no_rst {s t : State} (hrst : rstRaised s = false) (h : step s = .next t) :
    StepOutcome s t := by
  obtain ⟨hraised, _⟩ | ⟨_, b, q, hloop, rfl⟩ | ⟨_, hidle, hcmd, rfl⟩ |
    ⟨_, hidle, w, ws, hcmd, haccept⟩ := step_next_cases h
  · rw [hrst] at hraised
    cases hraised
  · obtain haccepted | hrejected := le_or_gt q.toNat (out s.state).toNat
    · rw [microStep_of_accepted (s := passBoundary s) haccepted]
      exact .ends b q hloop haccepted
    · rw [microStep_of_rejected (s := passBoundary s) hrejected]
      exact .redraws b q hloop hrejected
  · exact .idles hidle hcmd
  · obtain ⟨i, hdecode, hexec⟩ | ⟨why, hdecode, rfl⟩ := acceptWord_next_cases haccept
    · rw [exec_of_idle (s := writeCmd ws (passBoundary s)) hidle] at hexec
      cases hexec
      exact .runs hidle w ws hcmd i hdecode (commandOutcome i _)
    · exact .rejectsWord hidle w ws hcmd why hdecode

/-- A step is the event `rst`, or has one of the outcomes of a step with no `rst`. -/
theorem step_reset_or_outcome {s t : State} (h : step s = .next t) :
    (rstRaised s = true ∧ t = resetEvent (passBoundary s)) ∨ (rstRaised s = false ∧ StepOutcome s t) := by
  cases hrst : rstRaised s with
  | true =>
    rw [step_of_rst hrst] at h
    cases h
    exact .inl ⟨rfl, rfl⟩
  | false => exact .inr ⟨rfl, stepOutcome_of_no_rst hrst h⟩

end Sys2Proof.Machine
end

section
/-!
### The invariant (spec/10_state.md R23, R27, spec/30_encoding.md R67, R68)

The three parts of `Inv` speak of `inc`, `phase` and `rsp` alone, so one lemma for each way these are written is enough.
-/

namespace Sys2Proof.Machine

/-- The part of `Inv` about `phase`, as a fact about the phase alone (R27). -/
def PhaseLegal (p : Phase) : Prop :=
  ∀ b q, p = .loop b q → b ≠ 0#32 ∧ q.toNat = (2 ^ 32 - b.toNat) % b.toNat

theorem latchesAgree_iff (s : State) : latchesAgree s = true ↔ PhaseLegal s.phase := by
  unfold latchesAgree PhaseLegal
  cases s.phase <;> simp

theorem inv_iff (s : State) :
    Inv s ↔ s.inc.toNat % 2 = 1 ∧ PhaseLegal s.phase ∧ s.rsp.all responseLegal = true := by
  rw [Inv, incIsOdd_iff, latchesAgree_iff]

theorem phaseLegal_idle : PhaseLegal .idle := by
  intro b q h
  cases h

/-- The latches of an accepted `RANGE` agree (R113). -/
theorem phaseLegal_loop_threshold {b : U32} (hb : b ≠ 0#32) : PhaseLegal (.loop b (threshold b)) := by
  intro c q h
  cases h
  exact ⟨hb, threshold_toNat hb⟩

/-- `inc` and `phase` are what matters of the registers; `state` is free. -/
theorem Inv.of_fields {s t : State} (h : Inv s) (hinc : t.inc = s.inc) (hphase : t.phase = s.phase)
    (hrsp : t.rsp = s.rsp) : Inv t := by
  rw [inv_iff] at h ⊢
  rwa [hinc, hphase, hrsp]

theorem Inv.writeInc {s : State} (h : Inv s) {j : U64} (hj : j.toNat % 2 = 1) : Inv (writeInc j s) := by
  rw [inv_iff] at h ⊢
  obtain ⟨_, hphase, hrsp⟩ := h
  exact ⟨hj, hphase, hrsp⟩

theorem Inv.writePhase {s : State} (h : Inv s) {p : Phase} (hp : PhaseLegal p) : Inv (writePhase p s) := by
  rw [inv_iff] at h ⊢
  obtain ⟨hinc, _, hrsp⟩ := h
  exact ⟨hinc, hp, hrsp⟩

/-- Adding a response keeps the invariant when the engine may produce it (R67, R68). -/
theorem Inv.respond {s : State} (h : Inv s) {st : Status} {d : U64}
    (hlegal : responseLegal (responseWord st d) = true) : Inv (respond st d s) := by
  rw [inv_iff] at h ⊢
  obtain ⟨hinc, hphase, hrsp⟩ := h
  refine ⟨hinc, hphase, ?_⟩
  rw [respond_rsp, List.all_append, hrsp, List.all_cons, hlegal]
  rfl

/-- Every `OK` response is legal, and so are the two errors of the engine with data 0. -/
theorem responseLegal_ok (d : U64) : responseLegal (responseWord .ok d) = true := by
  simp [responseLegal, statusCode]

theorem Inv.reject {s : State} (h : Inv s) {st : Status} (hst : st = .invalidSequence ∨ st = .illegalCommand) :
    Inv (reject st s) := by
  obtain rfl | rfl := hst
  · exact h.respond (st := .invalidSequence) (d := 0#64) (by decide)
  · exact h.respond (st := .illegalCommand) (d := 0#64) (by decide)

theorem Inv.command {s t : State} {i : Instr} (h : Inv s) (ho : CommandOutcome s i t) : Inv t := by
  cases ho with
  | seeds a j hj =>
    have hs : Inv (writeState a s) := h.of_fields rfl rfl rfl
    exact (hs.writeInc hj.odd).respond (responseLegal_ok _)
  | rejects a b _ => exact h.reject (.inl rfl)
  | draws =>
    have hs : Inv (drawAdvance s) := h.of_fields rfl rfl rfl
    exact hs.respond (responseLegal_ok _)
  | answers d _ => exact h.respond (responseLegal_ok d)
  | enters b hb => exact h.writePhase (phaseLegal_loop_threshold hb)

theorem Inv.step {s t : State} (h : Inv s) (ho : StepOutcome s t) : Inv t := by
  cases ho with
  | idles _ _ => exact h.of_fields rfl rfl rfl
  | runs _ w ws _ i _ hcommand =>
    have hs : Inv (writeCmd ws (passBoundary s)) := h.of_fields rfl rfl rfl
    exact hs.command hcommand
  | rejectsWord _ w ws _ _ _ =>
    have hs : Inv (writeCmd ws (passBoundary s)) := h.of_fields rfl rfl rfl
    exact hs.reject (.inr rfl)
  | ends b q _ _ =>
    have hs : Inv (drawAdvance (passBoundary s)) := h.of_fields rfl rfl rfl
    exact (hs.respond (responseLegal_ok _)).writePhase phaseLegal_idle
  | redraws b q _ _ => exact h.of_fields rfl rfl rfl

/-- A reset keeps the responses and loads an odd `inc`. -/
theorem Inv.resetEvent {s : State} (h : Inv s) : Inv (resetEvent s) := by
  rw [inv_iff] at h ⊢
  obtain ⟨_, _, hrsp⟩ := h
  exact ⟨defaultInc_odd, phaseLegal_idle, hrsp⟩

/-- Settles O49: a reset and each outcome of a step with no `rst` write `inc`, `phase` and `rsp` only in ways that keep
the invariant. -/
theorem everyStepKeepsTheInvariant : Obligations.EveryStepKeepsTheInvariant := by
  unfold Obligations.EveryStepKeepsTheInvariant
  intro s t hinv hstep
  obtain ⟨_, rfl⟩ | ⟨_, houtcome⟩ := step_reset_or_outcome hstep
  · exact Inv.resetEvent (hinv.of_fields rfl rfl rfl)
  · exact hinv.step houtcome

/-- Settles O48: the default increment is odd, the phase is `IDLE` and nothing was answered; `state` is in no part of
the invariant. -/
theorem invariantAtReset : Obligations.InvariantAtReset := by
  unfold Obligations.InvariantAtReset
  intro v
  rw [inv_iff]
  exact ⟨defaultInc_odd, phaseLegal_idle, rfl⟩

end Sys2Proof.Machine
end

section
/-!
### The frame of a command and of a step (spec/10_state.md R22, R32, spec/70_reset_and_hazards.md R176 to R179)
-/

namespace Sys2Proof.Machine

/-- In `LOOP` no command is accepted (R113; notes/assumptions/6.md). -/
theorem exec_of_loop {s : State} {b q : U32} (h : s.phase = .loop b q) (i : Instr) : exec i s = .next s :=
  (exec_eq_whenIdle i s).trans (whenIdle_of_loop h)

/-- What `exec` answers: the state itself, where the command waits, or an outcome of the command. -/
theorem exec_next_cases {i : Instr} {s t : State} (h : exec i s = .next t) : t = s ∨ CommandOutcome s i t := by
  rw [exec_eq_whenIdle] at h
  obtain ⟨_, rfl⟩ | ⟨_, rfl⟩ := whenIdle_next_cases h
  · exact .inr (commandOutcome i s)
  · exact .inl rfl

/-- Where the added response is not `OK`, the command did not answer `OK`. -/
theorem not_ok_of_responds {st : Status} {d : U64} {rs : List RspWord} {r : RspWord}
    (h : rs ++ [responseWord st d] = rs ++ [r]) (hr : responseStatus r ≠ 0x00#8) : st ≠ .ok := by
  rintro rfl
  cases List.append_cancel_left h
  exact hr (responseStatus_responseWord .ok d)

/-- Settles O46: where the command waits nothing changes; else each of its outcomes is a written-out update, and only
the rejected `SEED` answers something other than `OK`. -/
theorem commandsWriteOnlyWhatTheAccessTableSays : Obligations.CommandsWriteOnlyWhatTheAccessTableSays := by
  unfold Obligations.CommandsWriteOnlyWhatTheAccessTableSays
  intro i s t hexec
  obtain rfl | houtcome := exec_next_cases hexec
  · refine ⟨rfl, rfl, rfl, .inl ⟨rfl, rfl⟩, fun _ _ => rfl, fun _ _ _ => rfl, fun _ => rfl, fun r hr => ?_⟩
    simp at hr
  cases houtcome with
  | seeds a j hseeds =>
    refine ⟨rfl, rfl, rfl, .inr ⟨_, rfl, rfl⟩, fun h1 h2 => ?_, fun h1 h2 _ => ?_, fun _ => rfl,
      fun r hr hst => absurd rfl (not_ok_of_responds hr hst)⟩
    all_goals
      obtain ⟨hi, _⟩ | ⟨hi, _⟩ := hseeds
      · exact absurd hi (h1 a j)
      · exact absurd hi (h2 a)
  | rejects a b _ =>
    refine ⟨rfl, rfl, rfl, .inr ⟨_, rfl, rfl⟩, fun _ _ => rfl, fun _ _ _ => rfl, fun _ => rfl, fun r hr _ => ?_⟩
    cases List.append_cancel_left hr
    rfl
  | draws =>
    exact ⟨rfl, rfl, rfl, .inr ⟨_, rfl, rfl⟩, fun _ _ => rfl, fun _ _ h => absurd rfl h, fun _ => rfl,
      fun r hr hst => absurd rfl (not_ok_of_responds hr hst)⟩
  | answers d _ =>
    exact ⟨rfl, rfl, rfl, .inr ⟨_, rfl, rfl⟩, fun _ _ => rfl, fun _ _ _ => rfl, fun _ => rfl,
      fun r hr hst => absurd rfl (not_ok_of_responds hr hst)⟩
  | enters b hb =>
    refine ⟨rfl, rfl, rfl, .inl ⟨rfl, rfl⟩, fun _ _ => rfl, fun _ _ _ => rfl, fun h => absurd rfl (h b hb),
      fun r hr => ?_⟩
    simp at hr

/-- With no `rst`, the registers stay, or `state` advances, or an idle engine accepts a seeding command (R176). -/
theorem StepOutcome.registers {s t : State} (h : StepOutcome s t) :
    (t.inc = s.inc ∧ (t.state = s.state ∨ t.state = adv s.state s.inc)) ∨
    (s.phase = .idle ∧ ∃ w ws i, s.cmd = w :: ws ∧ decode w = .command i ∧ SeedsWith i t.state t.inc) := by
  cases h with
  | idles _ _ => exact .inl ⟨rfl, .inl rfl⟩
  | runs hidle w ws hcmd i hdecode hcommand =>
    cases hcommand with
    | seeds a j hseeds => exact .inr ⟨hidle, w, ws, i, hcmd, hdecode, hseeds⟩
    | draws => exact .inl ⟨rfl, .inr rfl⟩
    | _ => exact .inl ⟨rfl, .inl rfl⟩
  | rejectsWord _ _ _ _ _ _ => exact .inl ⟨rfl, .inl rfl⟩
  | ends _ _ _ _ => exact .inl ⟨rfl, .inr rfl⟩
  | redraws _ _ _ _ => exact .inl ⟨rfl, .inr rfl⟩

/-- `LOOP` is left only by a draw that is answered (R115). -/
theorem StepOutcome.leaves_loop {s t : State} (h : StepOutcome s t) (hs : s.phase ≠ .idle) (ht : t.phase = .idle) :
    t.state = adv s.state s.inc ∧ ∃ d, t.rsp = s.rsp ++ [responseWord .ok d] := by
  cases h with
  | ends _ _ _ _ => exact ⟨rfl, _, rfl⟩
  | redraws _ _ _ _ => exact absurd ht hs
  | idles hidle _ => exact absurd hidle hs
  | runs hidle _ _ _ _ _ _ => exact absurd hidle hs
  | rejectsWord hidle _ _ _ _ _ => exact absurd hidle hs

theorem StepOutcome.resets {s t : State} (h : StepOutcome s t) : t.resets = s.resets := by
  cases h with
  | runs _ _ _ _ _ _ hcommand => cases hcommand <;> rfl
  | _ => rfl

/-- Settles O3: by the outcomes of a step with no `rst`, one lemma for each of the three clauses. -/
theorem onlyRstResets : Obligations.OnlyRstResets := by
  unfold Obligations.OnlyRstResets
  intro s t hrst hstep
  have houtcome := stepOutcome_of_no_rst hrst hstep
  refine ⟨?_, houtcome.leaves_loop, houtcome.resets⟩
  obtain hkeeps | ⟨hidle, w, ws, i, hcmd, hdecode, hseeds⟩ := houtcome.registers
  · exact .inl hkeeps
  · refine .inr ⟨hidle, w, ws, hcmd, ?_⟩
    obtain ⟨rfl, hodd⟩ | ⟨rfl, hinc⟩ := hseeds
    · exact .inl ⟨hdecode, hodd⟩
    · exact .inr ⟨hdecode, hinc⟩

/-- Settles O47: without `rst` the registers' clause leaves only a seeding command to change `inc`. -/
theorem onlySeedingAndResetWriteInc : Obligations.OnlySeedingAndResetWriteInc := by
  unfold Obligations.OnlySeedingAndResetWriteInc
  intro s t hstep hchanged
  obtain ⟨hrst, _⟩ | ⟨_, houtcome⟩ := step_reset_or_outcome hstep
  · exact .inl hrst
  · obtain ⟨hkept, _⟩ | ⟨hidle, w, ws, i, hcmd, hdecode, hseeds⟩ := houtcome.registers
    · exact absurd hkept hchanged
    · refine .inr ⟨hidle, w, ws, hcmd, ?_⟩
      obtain ⟨rfl, hodd⟩ | ⟨rfl, _⟩ := hseeds
      · exact .inl ⟨_, _, hdecode, hodd⟩
      · exact .inr ⟨_, hdecode⟩

/-- A step with no `rst` that does not answer leaves the engine in `LOOP`, or only passes the boundary. -/
theorem StepOutcome.answers_or {s t : State} (h : StepOutcome s t) :
    (∃ r, t.rsp = s.rsp ++ [r]) ∨ (∃ b q, t.phase = .loop b q) ∨ t = passBoundary s := by
  cases h with
  | idles _ _ => exact .inr (.inr rfl)
  | runs _ _ _ _ _ _ hcommand =>
    obtain ⟨_, ⟨_, _, hrsp⟩ | ⟨hloop, _⟩⟩ := hcommand.answers_or_enters
    · exact .inl hrsp
    · exact .inr (.inl hloop)
  | rejectsWord _ _ _ _ _ _ => exact .inl ⟨_, rfl⟩
  | ends _ _ _ _ => exact .inl ⟨_, rfl⟩
  | redraws b q hloop _ => exact .inr (.inl ⟨b, q, hloop⟩)

@[simp] theorem runOver_passBoundary (s : State) : runOver (passBoundary s) = runOver s := rfl

/-- A reset that leaves `CMD` empty makes a run over only if it was over before. -/
theorem runOver_resetEvent {s : State} (h : runOver (resetEvent s) = true) : runOver s = true := by
  rw [runOver_iff] at h ⊢
  obtain ⟨_, hcmd, hanswered⟩ := h
  rw [resetEvent_cmd, cmdAfterReset_eq] at hcmd
  rw [resetEvent_unanswered, unansweredAfterReset_eq] at hanswered
  cases hw : Config.presentedWithdrawn s.resets <;> simp_all

/-- A reset that leaves `CMD` empty, where a command was presented or in progress, leaves that command unanswered
(R157, R177). -/
theorem resetEvent_unanswered_of_pending {s : State} (hcmd : (resetEvent s).cmd = [])
    (hpending : s.phase ≠ .idle ∨ s.cmd ≠ []) : (resetEvent s).unanswered = true := by
  rw [resetEvent_cmd, cmdAfterReset_eq] at hcmd
  rw [resetEvent_unanswered, unansweredAfterReset_iff]
  obtain hphase | hcmd' := hpending
  · exact .inr (.inl hphase)
  · refine .inr (.inr ⟨hcmd', ?_⟩)
    by_contra hkept
    exact hcmd' (by rwa [if_neg hkept] at hcmd)

/-- The host waits for an answer that never comes, with the responses `rs` received so far (D12). -/
def WaitsForever (rs : List RspWord) (s : State) : Prop :=
  s.phase = .idle ∧ s.cmd = [] ∧ s.unanswered = true ∧ s.rsp = rs

theorem WaitsForever.step {rs : List RspWord} {s t : State} (h : WaitsForever rs s) (hstep : step s = .next t) :
    WaitsForever rs t := by
  obtain ⟨hidle, hcmd, hunanswered, hrsp⟩ := h
  obtain ⟨_, rfl⟩ | ⟨_, houtcome⟩ := step_reset_or_outcome hstep
  · refine ⟨rfl, ?_, ?_, hrsp⟩
    · simp [hcmd, cmdAfterReset]
    · simp [unansweredAfterReset, hunanswered]
  · cases houtcome with
    | idles _ _ => exact ⟨hidle, hcmd, hunanswered, hrsp⟩
    | runs _ _ _ hcmd' _ _ _ => simp [hcmd] at hcmd'
    | rejectsWord _ _ _ hcmd' _ _ => simp [hcmd] at hcmd'
    | ends _ _ hloop _ => simp [hidle] at hloop
    | redraws _ _ hloop _ => simp [hidle] at hloop

/-- Settles O4: a step that answers nothing leaves `LOOP`, or the run as it was; and after a reset that took the last
command the host waits for ever, which every step keeps. -/
theorem runIsOverOnlyOnReceipt : Obligations.RunIsOverOnlyOnReceipt := by
  unfold Obligations.RunIsOverOnlyOnReceipt
  refine ⟨fun s t hs hstep ht => ?receipt, fun n s t u hrst hstep hcmd hpending hrun => ?never⟩
  case receipt =>
    obtain ⟨hidle, hcmd, _⟩ := runOver_iff.mp ht
    have hbefore : ¬ runOver (passBoundary s) = true := by
      rw [runOver_passBoundary, hs]
      decide
    obtain ⟨_, rfl⟩ | ⟨hrst, houtcome⟩ := step_reset_or_outcome hstep
    · exact absurd (runOver_resetEvent ht) hbefore
    · refine ⟨hrst, hidle, hcmd, ?_⟩
      obtain hanswers | ⟨b, q, hloop⟩ | rfl := houtcome.answers_or
      · exact hanswers
      · simp [hidle] at hloop
      · exact absurd ht hbefore
  case never =>
    rw [step_of_rst hrst] at hstep
    cases hstep
    have hwaits : WaitsForever s.rsp (resetEvent (passBoundary s)) :=
      ⟨rfl, hcmd, resetEvent_unanswered_of_pending hcmd hpending, rfl⟩
    obtain ⟨_, _, hunanswered, hrsp⟩ := runSteps_keeps (fun _ _ h => h.step) hrun hwaits
    exact ⟨by simp [runOver, hunanswered], hrsp⟩

end Sys2Proof.Machine
end

section
/-!
### Steps and words on `CMD` (spec/20_memory.md R51, spec/30_encoding.md R57, R75, spec/60_exceptions.md R154, R171,
R173)
-/

namespace Sys2Proof.Machine

/-- With no `rst`, an idle engine runs the command on `CMD` and consumes its word. -/
theorem step_of_decode {s : State} {w : CmdWord} {ws : List CmdWord} {i : Instr} (hrst : rstRaised s = false)
    (hidle : s.phase = .idle) (hcmd : s.cmd = w :: ws) (hdecode : decode w = .command i) :
    step s = exec i (writeCmd ws (passBoundary s)) := by
  rw [step_of_presented_word hrst hidle hcmd, acceptWord, hdecode]

/-- An idle engine that accepts the word of a command has the command's effect. -/
theorem acceptWord_of_command {s : State} {w : CmdWord} {i : Instr} (hidle : s.phase = .idle)
    (hdecode : decode w = .command i) : acceptWord w s = .next (commandEffect i s) := by
  rw [acceptWord, hdecode]
  exact exec_of_idle hidle i

/-- With no `rst`, an idle engine with the word of a command on `CMD` consumes it, with the command's effect. -/
theorem step_of_command {s : State} {i : Instr} {ws : List CmdWord} (hrst : rstRaised s = false)
    (hidle : s.phase = .idle) (hcmd : s.cmd = encode i :: ws) :
    step s = .next (commandEffect i (writeCmd ws (passBoundary s))) := by
  rw [step_of_presented_word hrst hidle hcmd]
  exact acceptWord_of_command (s := writeCmd ws (passBoundary s)) hidle (decode_encode i)

/-- Settles O40: `step_of_decode`, with the updates of `cmd` and `rst` written out. -/
theorem stepRunsTheDecodedCommand : Obligations.StepRunsTheDecodedCommand := by
  unfold Obligations.StepRunsTheDecodedCommand
  exact fun s w ws i hrst hidle hcmd hdecode => step_of_decode hrst hidle hcmd hdecode

theorem rstRaised_presentNow (w : CmdWord) (s : State) : rstRaised (presentNow w s) = false := by
  unfold presentNow
  cases hrst : rstRaised s <;> simp_all [rstRaised]

/-- Presenting a word changes no boundary but the coming one. -/
theorem presentNow_rst_tail (w : CmdWord) (s : State) : (presentNow w s).rst.tail = s.rst.tail := by
  unfold presentNow
  cases rstRaised s <;> rfl

/-- Settles O41: the placed word is the head of `CMD` on an idle engine with no `rst` to come, and consuming it leaves
the words that waited before. -/
theorem stepRunsAPlacedTableWord : Obligations.StepRunsAPlacedTableWord := by
  unfold Obligations.StepRunsAPlacedTableWord
  intro s nbits w i htable
  have hstep : step (s.withFetchWord nbits w) =
      exec i (writeCmd s.cmd (passBoundary (presentNow (tableWord nbits w) s))) :=
    step_of_decode (rstRaised_presentNow _ s) rfl rfl (decode_of_decodeTableWord htable)
  rw [hstep]
  exact congrArg (exec i) <| State.ext_fields
    (h1 := rfl) (h2 := rfl) (h3 := rfl) (h4 := rfl) (h5 := rfl)
    (h6 := presentNow_rst_tail _ s)
    (h7 := rfl) (h8 := rfl)

theorem step_of_nothing_presented {s : State} (hrst : rstRaised s = false) (hidle : s.phase = .idle)
    (hcmd : s.cmd = []) : step s = .next (passBoundary s) := by
  rw [step_of_no_rst hrst, engineStep, passBoundary_phase, hidle, passBoundary_cmd, hcmd]

/-- Settles O42: an idle engine with nothing presented only passes the boundary. -/
theorem idleEngineWithNothingPresentedKeepsItsState : Obligations.IdleEngineWithNothingPresentedKeepsItsState := by
  unfold Obligations.IdleEngineWithNothingPresentedKeepsItsState
  exact fun s hrst hidle hcmd => step_of_nothing_presented hrst hidle hcmd

/-- A micro-step neither reads nor writes the words on `CMD` (R57). -/
theorem microStep_writeCmd (b q : U32) (ws : List CmdWord) (s : State) :
    microStep b q (writeCmd ws s) = writeCmd ws (microStep b q s) := by
  have hdraw : drawOutput (writeCmd ws s) = drawOutput s := rfl
  unfold microStep
  rw [hdraw]
  split <;> rfl

@[simp] theorem microStep_cmd (b q : U32) (s : State) : (microStep b q s).cmd = s.cmd := by
  unfold microStep
  split <;> rfl

/-- Settles O43: the step is the micro-step, which commutes with writing `CMD`. -/
theorem commandsWaitUnexaminedInTheLoop : Obligations.CommandsWaitUnexaminedInTheLoop := by
  unfold Obligations.CommandsWaitUnexaminedInTheLoop
  intro s t b q ws hloop hrst hstep
  rw [step_of_loop hrst hloop] at hstep
  cases hstep
  refine ⟨microStep_cmd b q (passBoundary s), ?_⟩
  have hother : step (writeCmd ws s) = .next (microStep b q (writeCmd ws (passBoundary s))) :=
    step_of_loop (s := writeCmd ws s) hrst hloop
  rw [microStep_writeCmd] at hother
  exact hother

/-- The answers the engine owes for the command in progress: one in `LOOP`, none in `IDLE` (R75). -/
def owed (s : State) : Nat := if s.phase = .idle then 0 else 1

theorem owed_of_idle {s : State} (h : s.phase = .idle) : owed s = 0 := if_pos h

theorem owed_of_loop {s : State} {b q : U32} (h : s.phase = .loop b q) : owed s = 1 := by
  simp [owed, h]

/-- From `s` to `t` every consumed word was answered or is owed its answer, responses were only added, and words were
consumed from the front. -/
structure AnsweredInOrder (s t : State) : Prop where
  account : t.rsp.length + t.cmd.length + owed t = s.rsp.length + s.cmd.length + owed s
  answered : s.rsp <+: t.rsp
  consumed : t.cmd <:+ s.cmd

theorem AnsweredInOrder.refl (s : State) : AnsweredInOrder s s :=
  ⟨rfl, ⟨[], List.append_nil _⟩, List.suffix_refl _⟩

theorem AnsweredInOrder.trans {s t u : State} (h1 : AnsweredInOrder s t) (h2 : AnsweredInOrder t u) :
    AnsweredInOrder s u :=
  ⟨h2.account.trans h1.account, h1.answered.trans h2.answered, h2.consumed.trans h1.consumed⟩

theorem AnsweredInOrder.of_step {s t : State} (h : StepOutcome s t) : AnsweredInOrder s t := by
  cases h with
  | idles _ _ => exact ⟨rfl, ⟨[], List.append_nil _⟩, List.suffix_refl _⟩
  | runs hidle w ws hcmd i _ hcommand =>
    obtain ⟨ht, ⟨hphase, _, r, hrsp⟩ | ⟨⟨b, q, hloop⟩, hrsp⟩⟩ := hcommand.answers_or_enters
    · refine ⟨?_, ⟨[r], hrsp.symm⟩, ⟨[w], by rw [ht, hcmd]; rfl⟩⟩
      simp [ht, hrsp, hcmd, owed_of_idle hidle, owed_of_idle (hphase.trans hidle)]
      omega
    · refine ⟨?_, ⟨[], (List.append_nil _).trans hrsp.symm⟩, ⟨[w], by rw [ht, hcmd]; rfl⟩⟩
      simp [ht, hrsp, hcmd, owed_of_idle hidle, owed_of_loop hloop]
      omega
  | rejectsWord hidle w ws hcmd _ _ =>
    refine ⟨?_, ⟨_, rfl⟩, ⟨[w], hcmd.symm⟩⟩
    simp [owed, hidle, hcmd]
    omega
  | ends b q hloop _ =>
    refine ⟨?_, ⟨_, rfl⟩, List.suffix_refl _⟩
    simp [owed, hloop]
    omega
  | redraws _ _ _ _ => exact ⟨rfl, ⟨[], List.append_nil _⟩, List.suffix_refl _⟩

/-- Where no `rst` comes, none comes after the next step either. -/
theorem no_rst_of_step {s t : State} (h : ∀ x ∈ s.rst, x = false) (hstep : step s = .next t) :
    ∀ x ∈ t.rst, x = false := by
  rw [step_rst hstep]
  exact fun x hx => h x (List.mem_of_mem_tail hx)

/-- Settles O44: each step keeps the account, and a run adds up its steps. -/
theorem exactlyOneAnswerPerCommand : Obligations.ExactlyOneAnswerPerCommand := by
  unfold Obligations.ExactlyOneAnswerPerCommand
  intro n s t hrst hrun
  have hstep : ∀ a b : State, ((∀ x ∈ a.rst, x = false) ∧ AnsweredInOrder s a) → step a = .next b →
      ((∀ x ∈ b.rst, x = false) ∧ AnsweredInOrder s b) := by
    intro a b h hab
    obtain ⟨ha, hsa⟩ := h
    exact ⟨no_rst_of_step ha hab, hsa.trans (.of_step (stepOutcome_of_no_rst (rstRaised_of_none ha) hab))⟩
  obtain ⟨_, haccount, hanswered, hconsumed⟩ := runSteps_keeps hstep hrun ⟨hrst, .refl s⟩
  exact ⟨haccount, hanswered, hconsumed⟩

/-- Every step answers a next state: no fault and no refusal exists on any path (R154, R158). -/
theorem step_total (s : State) : ∃ t, step s = .next t := by
  cases hrst : rstRaised s with
  | true => exact ⟨_, step_of_rst hrst⟩
  | false =>
    cases hphase : s.phase with
    | loop b q => exact ⟨_, step_of_loop hrst hphase⟩
    | idle =>
      cases hcmd : s.cmd with
      | nil => exact ⟨_, step_of_nothing_presented hrst hphase hcmd⟩
      | cons w ws =>
        rw [step_of_presented_word hrst hphase hcmd]
        exact acceptWord_total w _

/-- Settles O50: by induction on the number of steps, each of which answers a next state. -/
theorem engineNeverStops : Obligations.EngineNeverStops := by
  unfold Obligations.EngineNeverStops
  intro n
  induction n with
  | zero => exact fun s => ⟨s, rfl⟩
  | succ n ih =>
    intro s
    obtain ⟨t, ht⟩ := step_total s
    rw [RunsSafely, runSteps_succ_of_step ht]
    exact ih t

/-- The step of the engine at a position where there is one. -/
theorem stepEngineAt_of_step {k : Nat} {es : List State} {e e' : State} (he : es[k]? = some e)
    (hstep : step e = .next e') : stepEngineAt k es = .next (es.set k e') := by
  rw [stepEngineAt, he]
  simp only [hstep]

/-- Settles O51: where an engine steps, its new state is set at its position and nowhere else; where there is none,
nothing steps. -/
theorem enginesShareNothing : Obligations.EnginesShareNothing := by
  unfold Obligations.EnginesShareNothing
  intro k es es' h
  cases he : es[k]? with
  | none =>
    rw [stepEngineAt, he] at h
    cases h
    exact ⟨rfl, fun _ _ => rfl, fun _ hsome => by cases hsome⟩
  | some e =>
    obtain ⟨e', hstep⟩ := step_total e
    rw [stepEngineAt_of_step he hstep] at h
    cases h
    have hk : k < es.length := (List.getElem?_eq_some_iff.mp he).1
    refine ⟨List.length_set, fun j hj => List.getElem?_set_ne hj.symm, fun e₂ hsome => ?_⟩
    cases hsome
    exact ⟨e', hstep, List.getElem?_set_self hk⟩

end Sys2Proof.Machine
end

section
/-!
### Equal engines (spec/10_state.md R29, spec/70_reset_and_hazards.md R178)

Two engines that hold the same and were presented the same words stay so, and answer the same, in every shared
operation and so in every run.
-/

namespace Sys2Proof.Machine

/-- The two engines hold the same, are presented the same words, and have answered the same since their responses were
`r₁` and `r₂`. -/
structure Agree (r₁ r₂ : List RspWord) (s₁ s₂ : State) : Prop where
  state : s₁.state = s₂.state
  inc : s₁.inc = s₂.inc
  phase : s₁.phase = s₂.phase
  cmd : s₁.cmd = s₂.cmd
  rsp : ∃ rs, s₁.rsp = r₁ ++ rs ∧ s₂.rsp = r₂ ++ rs

namespace Agree

variable {r₁ r₂ : List RspWord} {s₁ s₂ t₁ t₂ : State}

theorem drawOutput (h : Agree r₁ r₂ s₁ s₂) : drawOutput s₁ = drawOutput s₂ :=
  congrArg out h.state

theorem passBoundary (h : Agree r₁ r₂ s₁ s₂) : Agree r₁ r₂ (passBoundary s₁) (passBoundary s₂) :=
  ⟨h.state, h.inc, h.phase, h.cmd, h.rsp⟩

theorem writeState (h : Agree r₁ r₂ s₁ s₂) (v : U64) : Agree r₁ r₂ (writeState v s₁) (writeState v s₂) :=
  ⟨rfl, h.inc, h.phase, h.cmd, h.rsp⟩

theorem writeInc (h : Agree r₁ r₂ s₁ s₂) (v : U64) : Agree r₁ r₂ (writeInc v s₁) (writeInc v s₂) :=
  ⟨h.state, rfl, h.phase, h.cmd, h.rsp⟩

theorem writePhase (h : Agree r₁ r₂ s₁ s₂) (p : Phase) : Agree r₁ r₂ (writePhase p s₁) (writePhase p s₂) :=
  ⟨h.state, h.inc, rfl, h.cmd, h.rsp⟩

theorem writeCmd (h : Agree r₁ r₂ s₁ s₂) (ws : List CmdWord) : Agree r₁ r₂ (writeCmd ws s₁) (writeCmd ws s₂) :=
  ⟨h.state, h.inc, h.phase, rfl, h.rsp⟩

theorem drawAdvance (h : Agree r₁ r₂ s₁ s₂) : Agree r₁ r₂ (drawAdvance s₁) (drawAdvance s₂) :=
  ⟨congrArg₂ adv h.state h.inc, h.inc, h.phase, h.cmd, h.rsp⟩

theorem respond (h : Agree r₁ r₂ s₁ s₂) (st : Status) (d : U64) :
    Agree r₁ r₂ (respond st d s₁) (respond st d s₂) := by
  obtain ⟨rs, h1, h2⟩ := h.rsp
  refine ⟨h.state, h.inc, h.phase, h.cmd, rs ++ [responseWord st d], ?_, ?_⟩
  · rw [respond_rsp, h1, List.append_assoc]
  · rw [respond_rsp, h2, List.append_assoc]

theorem commandEffect (h : Agree r₁ r₂ s₁ s₂) (i : Instr) :
    Agree r₁ r₂ (commandEffect i s₁) (commandEffect i s₂) := by
  cases i with
  | seed a b =>
    simp only [Machine.commandEffect, seedEffect]
    split
    · exact ((h.writeState a).writeInc b).respond .ok 0#64
    · exact h.respond .invalidSequence 0#64
  | seedState a => exact ((h.writeState a).writeInc Config.defaultInc).respond .ok 0#64
  | nextU32 =>
    simp only [Machine.commandEffect, nextU32Effect, h.drawOutput]
    exact h.drawAdvance.respond .ok _
  | range b =>
    simp only [Machine.commandEffect, rangeEffect]
    split
    · exact h.respond .ok 0#64
    · exact h.writePhase _
  | rdState =>
    simp only [Machine.commandEffect, rdStateEffect, h.state]
    exact h.respond .ok _
  | rdInc =>
    simp only [Machine.commandEffect, rdIncEffect, h.inc]
    exact h.respond .ok _

theorem microStep (h : Agree r₁ r₂ s₁ s₂) (b q : U32) :
    Agree r₁ r₂ (microStep b q s₁) (microStep b q s₂) := by
  simp only [Machine.microStep, h.drawOutput]
  split
  · exact (h.drawAdvance.respond .ok _).writePhase .idle
  · exact h.drawAdvance

theorem step (h : Agree r₁ r₂ s₁ s₂) (hrst₁ : rstRaised s₁ = false) (hrst₂ : rstRaised s₂ = false)
    (hs₁ : step s₁ = .next t₁) (hs₂ : step s₂ = .next t₂) : Agree r₁ r₂ t₁ t₂ := by
  cases hphase : s₁.phase with
  | loop b q =>
    rw [step_of_loop hrst₁ hphase] at hs₁
    rw [step_of_loop hrst₂ (h.phase ▸ hphase)] at hs₂
    cases hs₁
    cases hs₂
    exact h.passBoundary.microStep b q
  | idle =>
    have hphase₂ : s₂.phase = .idle := h.phase ▸ hphase
    cases hcmd : s₁.cmd with
    | nil =>
      rw [step_of_nothing_presented hrst₁ hphase hcmd] at hs₁
      rw [step_of_nothing_presented hrst₂ hphase₂ (h.cmd ▸ hcmd)] at hs₂
      cases hs₁
      cases hs₂
      exact h.passBoundary
    | cons w ws =>
      have hpresented := h.passBoundary.writeCmd ws
      rw [step_of_presented_word hrst₁ hphase hcmd] at hs₁
      rw [step_of_presented_word hrst₂ hphase₂ (h.cmd ▸ hcmd)] at hs₂
      cases hdecode : decode w with
      | command i =>
        rw [acceptWord_of_command (s := Machine.writeCmd ws (Machine.passBoundary s₁)) hphase hdecode] at hs₁
        rw [acceptWord_of_command (s := Machine.writeCmd ws (Machine.passBoundary s₂)) hphase₂ hdecode] at hs₂
        cases hs₁
        cases hs₂
        exact hpresented.commandEffect i
      | illegal why =>
        rw [acceptWord_of_illegal hdecode] at hs₁ hs₂
        cases hs₁
        cases hs₂
        exact hpresented.respond .illegalCommand 0#64

theorem runSteps {n : Nat} (h : Agree r₁ r₂ s₁ s₂) (hrst₁ : ∀ x ∈ s₁.rst, x = false)
    (hrst₂ : ∀ x ∈ s₂.rst, x = false) (hs₁ : runSteps n s₁ = .next t₁) (hs₂ : runSteps n s₂ = .next t₂) :
    Agree r₁ r₂ t₁ t₂ := by
  induction n generalizing s₁ s₂ with
  | zero =>
    cases hs₁
    cases hs₂
    exact h
  | succ n ih =>
    obtain ⟨u₁, hu₁⟩ := step_total s₁
    obtain ⟨u₂, hu₂⟩ := step_total s₂
    rw [runSteps_succ_of_step hu₁] at hs₁
    rw [runSteps_succ_of_step hu₂] at hs₂
    have hu := h.step (rstRaised_of_none hrst₁) (rstRaised_of_none hrst₂) hu₁ hu₂
    exact ih hu (no_rst_of_step hrst₁ hu₁) (no_rst_of_step hrst₂ hu₂) hs₁ hs₂

end Agree

/-- Settles O45: agreement with no response yet holds at the start, and every run keeps agreement. -/
theorem equalEnginesAnswerEqually : Obligations.EqualEnginesAnswerEqually := by
  unfold Obligations.EqualEnginesAnswerEqually
  intro n s₁ s₂ t₁ t₂ hstate hinc hphase hcmd hrst₁ hrst₂ hrun₁ hrun₂
  have hstart : Agree s₁.rsp s₂.rsp s₁ s₂ :=
    ⟨hstate, hinc, hphase, hcmd, [], (List.append_nil _).symm, (List.append_nil _).symm⟩
  obtain ⟨h1, h2, h3, h4, h5⟩ := hstart.runSteps hrst₁ hrst₂ hrun₁ hrun₂
  exact ⟨h1, h2, h3, h4, h5⟩

/-- Settles O8: after the accepted `SEED` the two engines agree, whatever they held, and the rest of the run keeps
agreement. -/
theorem seedingForgetsTheEarlierGenerator : Obligations.SeedingForgetsTheEarlierGenerator := by
  unfold Obligations.SeedingForgetsTheEarlierGenerator
  intro n a b ws s₁ s₂ t₁ t₂ hodd hidle₁ hidle₂ hcmd₁ hcmd₂ hrst₁ hrst₂ hrun₁ hrun₂
  have hseed₁ := step_of_command (rstRaised_of_none hrst₁) hidle₁ hcmd₁
  have hseed₂ := step_of_command (rstRaised_of_none hrst₂) hidle₂ hcmd₂
  rw [runSteps_succ_of_step hseed₁] at hrun₁
  rw [runSteps_succ_of_step hseed₂] at hrun₂
  have hseeded : Agree s₁.rsp s₂.rsp (commandEffect (.seed a b) (writeCmd ws (passBoundary s₁)))
      (commandEffect (.seed a b) (writeCmd ws (passBoundary s₂))) := by
    rw [commandEffect, commandEffect, seedEffect_of_odd hodd, seedEffect_of_odd hodd]
    exact ⟨rfl, rfl, hidle₁.trans hidle₂.symm, rfl, _, rfl, rfl⟩
  obtain ⟨h1, h2, h3, h4, h5⟩ :=
    hseeded.runSteps (no_rst_of_step hrst₁ hseed₁) (no_rst_of_step hrst₂ hseed₂) hrun₁ hrun₂
  exact ⟨h1, h2, h3, h4, h5⟩

/-- Settles O7: the default increment is odd, so `SEED` with it is accepted, and writes what `SEED_STATE` writes. -/
theorem seedStateIsSeedWithTheDefaultIncrement : Obligations.SeedStateIsSeedWithTheDefaultIncrement := by
  unfold Obligations.SeedStateIsSeedWithTheDefaultIncrement
  intro a s hidle
  have hseed : seedEffect a Config.defaultInc s = seedStateEffect a s := seedEffect_of_odd defaultInc_odd a s
  rw [exec_of_idle hidle, exec_of_idle hidle]
  exact congrArg _ hseed.symm

/-- Settles O31: the two read-outs answer both registers and change none; `inc` is odd, so the other engine accepts the
`SEED` and takes them. -/
theorem forkByReadingAndSeeding : Obligations.ForkByReadingAndSeeding := by
  unfold Obligations.ForkByReadingAndSeeding
  intro a b ha hb hodd
  refine ⟨_, _, _, responseWord .ok a.state, responseWord .ok a.inc, exec_of_idle ha .rdState,
    exec_of_idle (s := commandEffect .rdState a) ha .rdInc, ?_, exec_of_idle hb _, ?_⟩
  · simp [commandEffect, rdStateEffect, rdIncEffect]
  · rw [responseData_responseWord, responseData_responseWord, commandEffect, seedEffect_of_odd hodd]
    exact ⟨rfl, rfl, hb.trans ha.symm, rfl, rfl⟩

end Sys2Proof.Machine
end

section
/-!
### Bits of the core step (spec/41_core_step.md R104, R105, R107)
-/

namespace Sys2Proof.Machine

/-- Bit `k` of the folded word (R104): the two shifted copies of `s`. -/
theorem xsh_getLsbD (s : U64) (k : Nat) :
    (xsh s).getLsbD k = (decide (k < 32) && (s.getLsbD (k + 27)).xor (s.getLsbD (k + 45))) := by
  have h27 : 27 + k = k + 27 := Nat.add_comm 27 k
  have h45 : 18 + (k + 27) = k + 45 := by omega
  rw [xsh, Config.sh1, Config.sh2, BitVec.getLsbD_setWidth, BitVec.getLsbD_ushiftRight, BitVec.getLsbD_xor,
    BitVec.getLsbD_ushiftRight, h27, h45, Bool.xor_comm]

/-- The output reads `state` from bit 27 up only (R104). -/
theorem out_eq_of_high_bits_eq {s t : U64} (h : ∀ j, 27 ≤ j → s.getLsbD j = t.getLsbD j) : out s = out t := by
  have hxsh : xsh s = xsh t := by
    apply BitVec.eq_of_getLsbD_eq
    intro k _
    rw [xsh_getLsbD, xsh_getLsbD, h (k + 27) (by omega), h (k + 45) (by omega)]
  have hrot : s >>> Config.rotSh = t >>> Config.rotSh := by
    apply BitVec.eq_of_getLsbD_eq
    intro k _
    rw [BitVec.getLsbD_ushiftRight, BitVec.getLsbD_ushiftRight]
    exact h _ (Nat.le_trans (by decide) (Nat.le_add_right 59 k))
  rw [out, out, hxsh, rot, rot, hrot]

/-- The inverse of the multiplier modulo `2 ^ 64`, which exists since the multiplier is odd. -/
def multInverse : U64 := 0xC097EF87329E28A5#64

theorem multInverse_mul_mult : multInverse * Config.mult = 1#64 := by decide

/-- For a fixed increment, different states have different next states (R104). -/
@[simp] theorem adv_left_inj (s t i : U64) : adv s i = adv t i ↔ s = t := by
  refine ⟨fun h => ?_, fun h => by rw [h]⟩
  have hproduct : Config.mult * s = Config.mult * t := (BitVec.add_left_inj i).mp h
  have hcancel := congrArg (multInverse * ·) hproduct
  simpa only [← BitVec.mul_assoc, multInverse_mul_mult, BitVec.one_mul] using hcancel

/-- Settles O13: `xsh_getLsbD`, where bit `k + 45` is beyond the register from `k = 19` on; equal outputs by the bits
the output reads, and different next states by injectivity of the advance. -/
theorem stateBitsThatReachTheOutput : Obligations.StateBitsThatReachTheOutput := by
  unfold Obligations.StateBitsThatReachTheOutput
  refine ⟨fun s k => ⟨fun hk => ?low, fun hlo hhi => ?high⟩, fun s i s' hbits => ?agree⟩
  case low =>
    have hk32 : k < 32 := by omega
    rw [xsh_getLsbD, decide_eq_true hk32, Bool.true_and]
  case high =>
    have hk32 : k < 32 := by omega
    have hbeyond : s.getLsbD (k + 45) = false := BitVec.getLsbD_of_ge s _ (by omega)
    rw [xsh_getLsbD, decide_eq_true hk32, hbeyond, Bool.true_and, Bool.xor_false]
  case agree => exact ⟨out_eq_of_high_bits_eq hbits, fun hne heq => hne ((adv_left_inj s s' i).mp heq)⟩

/-- Rotating right by `r` brings bit `k + r`, counted round the word, to bit `k` (R105). -/
theorem ror32_getLsbD (x : U32) {r k : Nat} (hr : r < 32) (hk : k < 32) :
    (ror32 x r).getLsbD k = x.getLsbD ((k + r) % 32) := by
  obtain rfl | hpos := Nat.eq_zero_or_pos r
  · simp [ror32, Nat.mod_eq_of_lt hk]
  have hamount : (32 - r) % 32 = 32 - r := Nat.mod_eq_of_lt (by omega)
  rw [ror32, hamount, BitVec.getLsbD_or, BitVec.getLsbD_ushiftRight, BitVec.getLsbD_shiftLeft]
  obtain hlow | hwraps := Nat.lt_or_ge (k + r) 32
  · have hshift : k < 32 - r := by omega
    simp [hk, hshift, Nat.mod_eq_of_lt hlow, Nat.add_comm r k]
  · have hshift : ¬ k < 32 - r := by omega
    have hwrapped : k - (32 - r) = (k + r) % 32 := by omega
    have hbeyond : x.getLsbD (r + k) = false := BitVec.getLsbD_of_ge x _ (by omega)
    simp [hk, hshift, hwrapped, hbeyond]

/-- A non-zero rotation is made of two words with no bit in common (R105). -/
theorem rotated_parts_disjoint (x : U32) {r : Nat} (hpos : r ≠ 0) (hr : r < 32) :
    x >>> r &&& x <<< ((32 - r) % 32) = 0#32 := by
  have hamount : (32 - r) % 32 = 32 - r := Nat.mod_eq_of_lt (by omega)
  apply BitVec.eq_of_getLsbD_eq
  intro k hk
  rw [hamount, BitVec.getLsbD_and, BitVec.getLsbD_ushiftRight, BitVec.getLsbD_shiftLeft, BitVec.getLsbD_zero]
  obtain hlow | hhigh := Nat.lt_or_ge k (32 - r)
  · simp [hlow]
  · rw [BitVec.getLsbD_of_ge x (r + k) (by omega), Bool.false_and]

/-- Settles O14: each bit by `ror32_getLsbD`, of which no rotation is the case of amount 0. -/
theorem rotationMovesEveryBit : Obligations.RotationMovesEveryBit := by
  unfold Obligations.RotationMovesEveryBit
  intro x r hr
  refine ⟨fun k hk => ror32_getLsbD x hr hk, ?_, fun hpos => rotated_parts_disjoint x hpos hr⟩
  apply BitVec.eq_of_getLsbD_eq
  intro k hk
  rw [ror32_getLsbD x (by decide) hk, Nat.add_zero, Nat.mod_eq_of_lt hk]

theorem out_allOnes : out 0xFFFFFFFFFFFFFFFF#64 = 0xFFF00001#32 := by decide

/-- Settles O16: from state 0 the product is 0; the outputs of the three states are computed. -/
theorem cornerStatesDraw : Obligations.CornerStatesDraw := by
  unfold Obligations.CornerStatesDraw
  refine ⟨fun i => ⟨by decide, ?_⟩, out_allOnes, by decide⟩
  rw [adv, BitVec.mul_zero, BitVec.zero_add]

end Sys2Proof.Machine
end

section
/-!
### The recurrence (spec/41_core_step.md R107 (c), R108)

`n` draws add `c * (1 + a + … + a^(n-1))` to the state, with `a` the multiplier and `c = s * (a - 1) + i`. For an odd
increment `c` is odd, and since `a` is 1 modulo 4 the sum holds as many factors 2 as `n` does: so the state comes back
after exactly the multiples of `2 ^ 64`.
-/

namespace Sys2Proof.Machine

/-- The multiplier as an integer (R6). -/
def multInt : ℤ := 6364136223846793005

/-- The sum `1 + a + … + a^(n-1)` over the powers of the multiplier. -/
def multPowerSum (n : ℕ) : ℤ := ∑ k ∈ Finset.range n, multInt ^ k

theorem multPowerSum_succ (n : ℕ) : multPowerSum (n + 1) = multInt * multPowerSum n + 1 :=
  geom_sum_succ

/-- The sum closes: it is `(a ^ n - 1) / (a - 1)`. -/
theorem multPowerSum_mul (n : ℕ) : multPowerSum n * (multInt - 1) = multInt ^ n - 1 :=
  geom_sum_mul multInt n

/-- `n` draws in closed form, modulo `2 ^ 64`. -/
theorem stateAfter_toNat_modEq (s i : U64) (n : ℕ) :
    ((stateAfter s i n).toNat : ℤ) ≡
      s.toNat + (s.toNat * (multInt - 1) + i.toNat) * multPowerSum n [ZMOD 2 ^ 64] := by
  induction n with
  | zero => simp [stateAfter, multPowerSum]
  | succ n ih =>
    have hadv : ((stateAfter s i (n + 1)).toNat : ℤ) ≡
        (stateAfter s i n).toNat * multInt + i.toNat [ZMOD 2 ^ 64] := by
      rw [stateAfter, adv_toNat]
      push_cast
      exact Int.mod_modEq _ _
    have hsum : (s.toNat + (s.toNat * (multInt - 1) + i.toNat) * multPowerSum n) * multInt + i.toNat =
        s.toNat + (s.toNat * (multInt - 1) + i.toNat) * multPowerSum (n + 1) := by
      rw [multPowerSum_succ]
      ring
    rw [← hsum]
    exact hadv.trans ((ih.mul_right multInt).add_right _)

/-- Two words are equal when their numbers agree modulo `2 ^ 64`. -/
theorem eq_iff_toNat_modEq (v w : U64) : v = w ↔ (v.toNat : ℤ) ≡ w.toNat [ZMOD 2 ^ 64] := by
  constructor
  · rintro rfl
    rfl
  · intro h
    have hv := v.isLt
    have hw := w.isLt
    apply BitVec.eq_of_toNat_eq
    unfold Int.ModEq at h
    omega

/-- The sum over the powers holds as many factors 2 as its number of terms. -/
theorem emultiplicity_multPowerSum (n : ℕ) : emultiplicity 2 (multPowerSum n) = emultiplicity 2 (n : ℤ) := by
  have hprime : Prime (2 : ℤ) := Int.prime_two
  have hlift : emultiplicity 2 (multInt ^ n - 1 ^ n) = emultiplicity 2 (multInt - 1) + emultiplicity 2 (n : ℤ) :=
    Int.two_pow_sub_pow' n (by decide) (by decide)
  rw [one_pow, ← multPowerSum_mul, emultiplicity_mul hprime, add_comm] at hlift
  have hfinite : emultiplicity 2 (multInt - 1) ≠ ⊤ :=
    finiteMultiplicity_iff_emultiplicity_ne_top.mp (Int.finiteMultiplicity_iff.mpr ⟨by decide, by decide⟩)
  exact ENat.add_right_injective_of_ne_top hfinite hlift

theorem two_pow_dvd_multPowerSum_iff (k n : ℕ) : (2 : ℤ) ^ k ∣ multPowerSum n ↔ 2 ^ k ∣ n := by
  rw [pow_dvd_iff_le_emultiplicity, emultiplicity_multPowerSum, ← pow_dvd_iff_le_emultiplicity]
  exact_mod_cast Int.natCast_dvd_natCast (m := 2 ^ k)

/-- With an odd increment the state comes back after the multiples of `2 ^ 64` draws only (R108). -/
theorem stateAfter_eq_self_iff (s i : U64) (hodd : i.toNat % 2 = 1) (n : ℕ) :
    stateAfter s i n = s ↔ 2 ^ 64 ∣ n := by
  have hcoprime : IsCoprime ((2 : ℤ) ^ 64) (s.toNat * (multInt - 1) + i.toNat) := by
    refine IsCoprime.pow_left (Int.isCoprime_two_left.mpr (Int.odd_iff.mpr ?_))
    unfold multInt
    omega
  have hclosed := stateAfter_toNat_modEq s i n
  rw [← two_pow_dvd_multPowerSum_iff, eq_iff_toNat_modEq]
  constructor
  · intro hback
    have hdvd := (hback.symm.trans hclosed).dvd
    rw [add_sub_cancel_left] at hdvd
    exact hcoprime.dvd_of_dvd_mul_left hdvd
  · intro hdvd
    refine hclosed.trans (Int.ModEq.symm (Int.modEq_iff_dvd.mpr ?_))
    rw [add_sub_cancel_left]
    exact hdvd.mul_left _

/-- If two numbers of draws lead to the same state, so do their numbers less the smaller one. -/
theorem stateAfter_cancel {s i : U64} (m n : ℕ) (h : stateAfter s i (n + m) = stateAfter s i m) :
    stateAfter s i n = s := by
  induction m with
  | zero => exact h
  | succ m ih => exact ih ((adv_left_inj _ _ i).mp h)

/-- Fewer than `2 ^ 64` draws lead to different states. -/
theorem stateAfter_ne_of_lt {s i : U64} (hodd : i.toNat % 2 = 1) {m n : ℕ} (hmn : m < n) (hn : n < 2 ^ 64) :
    stateAfter s i n ≠ stateAfter s i m := by
  intro h
  obtain ⟨d, rfl⟩ := Nat.exists_eq_add_of_le' hmn.le
  have hdvd := (stateAfter_eq_self_iff s i hodd d).mp (stateAfter_cancel m d h)
  have hle := Nat.le_of_dvd (by omega) hdvd
  omega

/-- With an odd increment every state is reached (R108): `2 ^ 64` different states are all there are. -/
theorem exists_stateAfter_eq {i : U64} (hodd : i.toNat % 2 = 1) (s v : U64) :
    ∃ n, n < 2 ^ 64 ∧ stateAfter s i n = v := by
  have hinjective : Function.Injective fun n : Fin (2 ^ 64) => (stateAfter s i n).toFin := by
    intro m n h
    have heq : stateAfter s i m = stateAfter s i n := BitVec.toFin_inj.mp h
    obtain hlt | heqn | hgt := lt_trichotomy m.val n.val
    · exact absurd heq.symm (stateAfter_ne_of_lt hodd hlt n.isLt)
    · exact Fin.ext heqn
    · exact absurd heq (stateAfter_ne_of_lt hodd hgt m.isLt)
  obtain ⟨n, hn⟩ := Finite.surjective_of_injective hinjective v.toFin
  exact ⟨n.val, n.isLt, BitVec.toFin_inj.mp hn⟩

/-- Settles O17: the state comes back after `2 ^ 64` draws and not earlier, so the draws before are all different and
reach every state. -/
theorem recurrenceHasFullPeriod : Obligations.RecurrenceHasFullPeriod := by
  unfold Obligations.RecurrenceHasFullPeriod
  intro s i hodd
  refine ⟨exists_stateAfter_eq hodd s, (stateAfter_eq_self_iff s i hodd _).mpr (dvd_refl _), fun n hpos hlt => ?_⟩
  exact stateAfter_ne_of_lt hodd hpos hlt

end Sys2Proof.Machine
end

section
/-!
### Runs of commands that keep the engine idle (spec/41_core_step.md R107, spec/43_inspect.md R127)
-/

namespace Sys2Proof.Machine

/-- `s` with other words on `CMD` and another schedule of `rst`: what no command's effect reads or writes. -/
def withPorts (ws : List CmdWord) (rs : List Bool) (s : State) : State := { s with cmd := ws, rst := rs }

/-- The effects of some commands, in order. -/
def afterCommands : List Instr → State → State
  | [], s => s
  | i :: is, s => afterCommands is (commandEffect i s)

theorem commandEffect_withPorts (i : Instr) (ws : List CmdWord) (rs : List Bool) (s : State) :
    commandEffect i (withPorts ws rs s) = withPorts ws rs (commandEffect i s) := by
  cases i with
  | seed a b =>
    simp only [commandEffect, seedEffect]
    split <;> rfl
  | range b =>
    simp only [commandEffect, rangeEffect]
    split <;> rfl
  | _ => rfl

theorem afterCommands_withPorts (is : List Instr) (ws : List CmdWord) (rs : List Bool) (s : State) :
    afterCommands is (withPorts ws rs s) = withPorts ws rs (afterCommands is s) := by
  induction is generalizing s with
  | nil => rfl
  | cons i is ih => rw [afterCommands, commandEffect_withPorts, ih, afterCommands]

/-- The command is no `RANGE`, so it keeps the engine idle. -/
def Answering (i : Instr) : Prop := ∀ b, i ≠ .range b

theorem Answering.phase {i : Instr} (h : Answering i) (s : State) : (commandEffect i s).phase = s.phase := by
  obtain hkept | ⟨b, rfl, _⟩ := commandEffect_phase_cases i s
  · exact hkept
  · exact absurd rfl (h b)

/-- With no `rst`, an idle engine takes as many steps as there are words of commands before `ws` to run those commands,
when none of them is a `RANGE`. -/
theorem runSteps_of_commands (is : List Instr) {s : State} {ws : List CmdWord} (his : ∀ i ∈ is, Answering i)
    (hidle : s.phase = .idle) (hrst : ∀ x ∈ s.rst, x = false) (hcmd : s.cmd = is.map encode ++ ws) :
    runSteps is.length s = .next (withPorts ws (s.rst.drop is.length) (afterCommands is s)) := by
  induction is generalizing s with
  | nil =>
    exact congrArg _ <| State.ext_fields
      (h1 := rfl) (h2 := rfl) (h3 := rfl) (h4 := hcmd) (h5 := rfl) (h6 := rfl) (h7 := rfl) (h8 := rfl)
  | cons i is ih =>
    obtain ⟨hi, his⟩ := List.forall_mem_cons.mp his
    have hstep : step s = .next (withPorts (is.map encode ++ ws) s.rst.tail (commandEffect i s)) :=
      (step_of_command (rstRaised_of_none hrst) hidle hcmd).trans (congrArg _ (commandEffect_withPorts i _ _ s))
    have hrest := ih (s := withPorts (is.map encode ++ ws) s.rst.tail (commandEffect i s)) his
      ((hi.phase s).trans hidle) (no_rst_of_step hrst hstep) rfl
    rw [List.length_cons, runSteps_succ_of_step hstep, hrest, afterCommands_withPorts, ← List.drop_tail]
    rfl

/-- The responses of `n` draws from `s` (R107 (c)). -/
def drawResponses (s i : U64) (n : ℕ) : List RspWord :=
  (List.range n).map fun k => responseWord .ok ((out (stateAfter s i k)).setWidth 64)

/-- The first of the draws, and the others from the advanced state. -/
theorem drawResponses_succ (s i : U64) (n : ℕ) :
    drawResponses s i (n + 1) = responseWord .ok ((out s).setWidth 64) :: drawResponses (adv s i) i n := by
  rw [drawResponses, List.range_succ_eq_map, List.map_cons, List.map_map, drawResponses]
  simp only [stateAfter_adv]
  rfl

/-- `n` draws, the first of which advances the state from which the others draw. -/
theorem afterCommands_replicate_nextU32 (n : ℕ) (s : State) :
    afterCommands (List.replicate n .nextU32) s = { s with
      state := stateAfter s.state s.inc n
      rsp := s.rsp ++ drawResponses s.state s.inc n
      unanswered := if n = 0 then s.unanswered else false } := by
  induction n generalizing s with
  | zero =>
    exact State.ext_fields
      (h1 := rfl) (h2 := rfl) (h3 := rfl) (h4 := rfl)
      (h5 := (List.append_nil _).symm)
      (h6 := rfl) (h7 := rfl) (h8 := rfl)
  | succ n ih =>
    rw [List.replicate_succ, afterCommands, ih]
    exact State.ext_fields
      (h1 := stateAfter_adv s.state s.inc n)
      (h2 := rfl) (h3 := rfl) (h4 := rfl)
      (h5 := by simp [commandEffect, drawResponses_succ])
      (h6 := rfl)
      (h7 := by simp [commandEffect, nextU32Effect])
      (h8 := rfl)

theorem answering_nextU32 : Answering .nextU32 := by
  intro b h
  cases h

/-- Settles O15: the run of `n` words of `NEXT_U32` has the effects of `n` draws. -/
theorem consecutiveDrawsFollowTheRecurrence : Obligations.ConsecutiveDrawsFollowTheRecurrence := by
  unfold Obligations.ConsecutiveDrawsFollowTheRecurrence
  intro n s ws hidle hrst hcmd
  have hdraws : ∀ i ∈ List.replicate n Instr.nextU32, Answering i := by
    intro i hi
    rw [List.eq_of_mem_replicate hi]
    exact answering_nextU32
  have hrun := runSteps_of_commands _ hdraws hidle hrst (hcmd.trans (by rw [List.map_replicate]))
  rw [List.length_replicate, afterCommands_replicate_nextU32] at hrun
  exact hrun

/-- A list of read-outs (R127): each answers its register, and none changes one. -/
theorem afterCommands_readOuts (is : List Instr) (s : State) (his : ∀ i ∈ is, i = .rdState ∨ i = .rdInc) :
    afterCommands is s = { s with
      rsp := s.rsp ++ is.map fun i => responseWord .ok (if i = .rdState then s.state else s.inc)
      unanswered := if is = [] then s.unanswered else false } := by
  induction is generalizing s with
  | nil =>
    exact State.ext_fields
      (h1 := rfl) (h2 := rfl) (h3 := rfl) (h4 := rfl)
      (h5 := (List.append_nil _).symm)
      (h6 := rfl) (h7 := rfl) (h8 := rfl)
  | cons i is ih =>
    obtain ⟨hi, his⟩ := List.forall_mem_cons.mp his
    have heffect : commandEffect i s = respond .ok (if i = .rdState then s.state else s.inc) s := by
      obtain rfl | rfl := hi <;> rfl
    rw [afterCommands, heffect, ih _ his]
    exact State.ext_fields
      (h1 := rfl) (h2 := rfl) (h3 := rfl) (h4 := rfl)
      (h5 := by simp)
      (h6 := rfl)
      (h7 := by simp)
      (h8 := rfl)

theorem answering_of_readOut {i : Instr} (h : i = .rdState ∨ i = .rdInc) : Answering i := by
  intro b hb
  obtain rfl | rfl := h <;> cases hb

/-- Settles O30: the run of the read-outs' words has their effects, which are their responses. -/
theorem readOutsHaveNoSideEffect : Obligations.ReadOutsHaveNoSideEffect := by
  unfold Obligations.ReadOutsHaveNoSideEffect
  intro is s ws his hidle hrst hcmd
  rw [runSteps_of_commands is (fun i hi => answering_of_readOut (his i hi)) hidle hrst hcmd,
    afterCommands_readOuts is s his]
  rfl

end Sys2Proof.Machine
end

section
/-!
### The arithmetic of the range reducer (spec/42_range.md R111, R113, R119)
-/

namespace Sys2Proof.Machine

/-- Settles O18: an idle engine accepts `RANGE`, whose bound chooses between answering 0 and latching; in `LOOP` no
command is accepted. -/
theorem rangeIsAcceptedIntoTheLoop : Obligations.RangeIsAcceptedIntoTheLoop := by
  unfold Obligations.RangeIsAcceptedIntoTheLoop
  refine ⟨fun s hidle => ?_, fun b s hidle hb => ⟨threshold b, threshold_toNat hb, ?_⟩, fun i b t s hloop => ?_⟩
  · rw [exec_of_idle hidle, commandEffect, rangeEffect, if_pos rfl]
    rfl
  · rw [exec_of_idle hidle, commandEffect, rangeEffect, if_neg hb]
    rfl
  · exact exec_of_loop hloop i

theorem toNat_pos_of_ne_zero {b : U32} (hb : b ≠ 0#32) : 0 < b.toNat :=
  Nat.pos_of_ne_zero fun h => hb (BitVec.eq_of_toNat_eq h)

/-- The threshold is the rest of `2 ^ 32` itself (R111). -/
theorem threshold_toNat_eq_mod {b : U32} (hb : b ≠ 0#32) : (threshold b).toNat = 2 ^ 32 % b.toNat := by
  rw [threshold_toNat hb, Nat.mod_eq_sub_mod b.isLt.le]

/-- The threshold is an operation on 32-bit words (R111). -/
theorem threshold_eq_neg_umod {b : U32} (hb : b ≠ 0#32) : threshold b = (0#32 - b) % b := by
  have hpos := toNat_pos_of_ne_zero hb
  have hneg : (2 ^ 32 - b.toNat + 0) % 2 ^ 32 = 2 ^ 32 - b.toNat := Nat.mod_eq_of_lt (by omega)
  apply BitVec.eq_of_toNat_eq
  rw [threshold_toNat hb, BitVec.toNat_umod, BitVec.toNat_sub, BitVec.toNat_ofNat, Nat.zero_mod, hneg]

/-- Settles O21: the three forms of the threshold, and what a step from `LOOP` does to the phase. -/
theorem thresholdHasThreeForms : Obligations.ThresholdHasThreeForms := by
  unfold Obligations.ThresholdHasThreeForms
  refine ⟨fun b hb => ⟨threshold_toNat hb, threshold_toNat_eq_mod hb, threshold_eq_neg_umod hb⟩,
    fun s t b q hloop hstep => ?_⟩
  obtain ⟨hidle, _⟩ | ⟨hstays, _⟩ := step_phase_of_loop hloop hstep
  · exact .inl hidle
  · exact .inr hstays

theorem threshold_lt_bound {b : U32} (hb : b ≠ 0#32) : (threshold b).toNat < b.toNat := by
  rw [threshold_toNat hb]
  exact Nat.mod_lt _ (toNat_pos_of_ne_zero hb)

theorem threshold_le_sub {b : U32} (hb : b ≠ 0#32) : (threshold b).toNat ≤ 2 ^ 32 - b.toNat := by
  rw [threshold_toNat hb]
  exact Nat.mod_le _ _

/-- Below `b` and at most `2 ^ 32 - b`, the threshold is below half of their sum (R119 (c)). -/
theorem threshold_lt_half {b : U32} (hb : b ≠ 0#32) : (threshold b).toNat < 2 ^ 31 := by
  have h1 := threshold_lt_bound hb
  have h2 := threshold_le_sub hb
  omega

theorem reduce_lt {b : U32} (r : U32) (hb : b ≠ 0#32) : (reduce r b).toNat < b.toNat := by
  rw [reduce_toNat]
  exact Nat.mod_lt _ (toNat_pos_of_ne_zero hb)

/-- A power of two as a bound. -/
theorem toNat_ofNat_two_pow {k : ℕ} (hk : k ≤ 31) : (BitVec.ofNat 32 (2 ^ k)).toNat = 2 ^ k := by
  rw [BitVec.toNat_ofNat]
  exact Nat.mod_eq_of_lt (Nat.pow_lt_pow_right (by decide) (by omega))

/-- A power of two divides `2 ^ 32`, so no draw is rejected (R119 (f)). -/
theorem threshold_two_pow {k : ℕ} (hk : k ≤ 31) : threshold (BitVec.ofNat 32 (2 ^ k)) = 0#32 := by
  have hb : BitVec.ofNat 32 (2 ^ k) ≠ 0#32 := by
    intro h
    have hzero := congrArg BitVec.toNat h
    rw [toNat_ofNat_two_pow hk] at hzero
    exact absurd hzero (by positivity)
  apply BitVec.eq_of_toNat_eq
  rw [threshold_toNat_eq_mod hb, toNat_ofNat_two_pow hk]
  exact Nat.mod_eq_zero_of_dvd (Nat.pow_dvd_pow 2 (by omega))

/-- For the largest bound only the draw 0 is below the threshold (R119 (i)). -/
theorem not_drawAccepted_max_iff (r : U32) : drawAccepted r (threshold 0xFFFFFFFF#32) = false ↔ r = 0#32 := by
  have hone : (threshold 0xFFFFFFFF#32).toNat = 1 := by decide
  rw [drawAccepted, hone, decide_eq_false_iff_not, ← BitVec.toNat_inj, BitVec.toNat_ofNat]
  omega

/-- A draw below the bound is its own remainder. -/
theorem reduce_of_lt {r b : U32} (h : r.toNat < b.toNat) : reduce r b = r := by
  apply BitVec.eq_of_toNat_eq
  rw [reduce_toNat, Nat.mod_eq_of_lt h]

/-- Settles O22: the bounds follow from the threshold being the rest of `2 ^ 32 - b` modulo `b`; the cases of a
power of two, of 1 and of the largest bound by the remainder itself. -/
theorem rangeIntegerLaws : Obligations.RangeIntegerLaws := by
  unfold Obligations.RangeIntegerLaws
  refine ⟨fun b r hb => ?bounds, fun k r hk => ?powers, fun r => ⟨?one, not_drawAccepted_max_iff r, ?largest⟩, ?_⟩
  case bounds =>
    have hgreatest : (threshold 0x80000001#32).toNat = 2 ^ 31 - 1 := by decide
    have hhalf := threshold_lt_half hb
    exact ⟨threshold_lt_bound hb, threshold_le_sub hb, hhalf, by omega, reduce_lt r hb⟩
  case powers => exact ⟨threshold_two_pow hk, by rw [reduce_toNat, toNat_ofNat_two_pow hk]⟩
  case one => exact BitVec.eq_of_toNat_eq ((reduce_toNat r 1#32).trans (Nat.mod_one _))
  case largest =>
    intro hr
    refine reduce_of_lt ?_
    have hlt := r.isLt
    have hne : r.toNat ≠ 2 ^ 32 - 1 := fun h => hr (BitVec.eq_of_toNat_eq h)
    show r.toNat < 2 ^ 32 - 1
    omega
  · decide

/-- `b * q` consecutive numbers hold each residue modulo `b` exactly `q` times. -/
theorem card_filter_modEq_of_multiple {b : ℕ} (hb : 0 < b) (t q c : ℕ) :
    ((Finset.Ico t (t + b * q)).filter fun n => n ≡ c [MOD b]).card = q := by
  have hb' : (b : ℚ) ≠ 0 := by positivity
  have hshift : (((t + b * q : ℕ) : ℚ) - c) / b = ((t : ℚ) - c) / b + (q : ℕ) := by
    push_cast
    field_simp
    ring
  have hcard := Nat.Ico_filter_modEq_card t (t + b * q) hb c
  rw [hshift, Int.ceil_add_natCast, add_sub_cancel_left, max_eq_left (by positivity)] at hcard
  exact_mod_cast hcard

/-- The accepted draws are the numbers from the threshold up, which are a multiple of the bound in number (R119 (d)). -/
theorem threshold_add_mul {b : U32} (hb : b ≠ 0#32) :
    (threshold b).toNat + b.toNat * ((2 ^ 32 - (threshold b).toNat) / b.toNat) = 2 ^ 32 ∧
      b.toNat ∣ 2 ^ 32 - (threshold b).toNat := by
  have hdvd : b.toNat ∣ 2 ^ 32 - (threshold b).toNat := by
    rw [threshold_toNat_eq_mod hb]
    exact Nat.dvd_sub_mod _
  have hle := (threshold b).isLt.le
  rw [Nat.mul_div_cancel' hdvd]
  exact ⟨Nat.add_sub_cancel' hle, hdvd⟩

/-- A 32-bit number is an accepted draw that reduces to `c` when it is at or above the threshold and congruent to
`c`. -/
theorem accepted_and_reduces_iff {b c : U32} (hc : c.toNat < b.toNat) {n : ℕ} (hn : n < 2 ^ 32) :
    (drawAccepted (BitVec.ofNat 32 n) (threshold b) = true ∧ reduce (BitVec.ofNat 32 n) b = c) ↔
      (threshold b).toNat ≤ n ∧ n ≡ c.toNat [MOD b.toNat] := by
  have hvalue : (BitVec.ofNat 32 n).toNat = n := by
    rw [BitVec.toNat_ofNat]
    exact Nat.mod_eq_of_lt hn
  rw [drawAccepted, decide_eq_true_iff, ← BitVec.toNat_inj, reduce_toNat, hvalue, Nat.ModEq, Nat.mod_eq_of_lt hc]

/-- Settles O23: the draws counted are the numbers of one residue among `2 ^ 32 - threshold` consecutive ones, a
multiple of the bound. -/
theorem eachResidueIsEquallyFrequent : Obligations.EachResidueIsEquallyFrequent := by
  unfold Obligations.EachResidueIsEquallyFrequent
  intro b c hc
  have hb : b ≠ 0#32 := by
    rintro rfl
    exact absurd hc (Nat.not_lt_zero _)
  obtain ⟨hall, hdvd⟩ := threshold_add_mul hb
  refine ⟨?_, hdvd⟩
  have hset : ((Finset.range (2 ^ 32)).filter fun n =>
        drawAccepted (BitVec.ofNat 32 n) (threshold b) = true ∧ reduce (BitVec.ofNat 32 n) b = c) =
      (Finset.Ico (threshold b).toNat (2 ^ 32)).filter fun n => n ≡ c.toNat [MOD b.toNat] := by
    ext n
    rw [Finset.mem_filter, Finset.mem_filter, Finset.mem_range, Finset.mem_Ico]
    constructor
    · rintro ⟨hn, haccepted⟩
      obtain ⟨hle, hmod⟩ := (accepted_and_reduces_iff hc hn).mp haccepted
      exact ⟨⟨hle, hn⟩, hmod⟩
    · rintro ⟨⟨hle, hn⟩, hmod⟩
      exact ⟨hn, (accepted_and_reduces_iff hc hn).mpr ⟨hle, hmod⟩⟩
  have hcount := card_filter_modEq_of_multiple (toNat_pos_of_ne_zero hb) (threshold b).toNat
    ((2 ^ 32 - (threshold b).toNat) / b.toNat) c.toNat
  rw [hall] at hcount
  rw [hset, hcount]

/-- Settles O24: thirteen closed values of `threshold`, computed. -/
theorem commonThresholds : Obligations.CommonThresholds := by
  unfold Obligations.CommonThresholds
  decide

end Sys2Proof.Machine
end

section
/-!
### The loop of the range reducer (spec/42_range.md R112, R117, R118)

Both levels are described by the first accepted draw: the command level with its fuel, and the micro-steps of a run.
-/

namespace Sys2Proof.Machine

/-- Draw number `n`, counted from 0, is the first one at or above the threshold `q` (R112). -/
structure FirstAccepted (s i : U64) (q : U32) (n : ℕ) : Prop where
  rejected : ∀ k, k < n → (out (stateAfter s i k)).toNat < q.toNat
  accepted : q.toNat ≤ (out (stateAfter s i n)).toNat

theorem firstAccepted_zero_iff (s i : U64) (q : U32) : FirstAccepted s i q 0 ↔ q.toNat ≤ (out s).toNat :=
  ⟨fun h => h.accepted, fun h => ⟨fun _ hk => absurd hk (Nat.not_lt_zero _), h⟩⟩

/-- A rejected draw is followed by the draws from the advanced state. -/
theorem firstAccepted_succ_iff (s i : U64) (q : U32) (n : ℕ) :
    FirstAccepted s i q (n + 1) ↔ (out s).toNat < q.toNat ∧ FirstAccepted (adv s i) i q n := by
  constructor
  · rintro ⟨hrejected, haccepted⟩
    refine ⟨hrejected 0 n.succ_pos, fun k hk => ?_, ?_⟩
    · rw [stateAfter_adv]
      exact hrejected (k + 1) (Nat.succ_lt_succ hk)
    · rwa [stateAfter_adv]
  · rintro ⟨hfirst, hrejected, haccepted⟩
    refine ⟨fun k hk => ?_, ?_⟩
    · cases k with
      | zero => exact hfirst
      | succ k =>
        rw [← stateAfter_adv]
        exact hrejected k (Nat.lt_of_succ_lt_succ hk)
    · rwa [← stateAfter_adv]

/-- The answer of the command level when draw number `n` is the first accepted one, after `done` earlier draws. -/
def answerAt (s i : U64) (b : U32) (done n : ℕ) : RngAnswer :=
  ⟨reduce (out (stateAfter s i n)) b, stateAfter s i (n + 1), done + n + 1⟩

theorem rngLoop_eq_some_iff (i : U64) (b q : U32) (fuel done : ℕ) (s : U64) (a : RngAnswer) :
    rngLoop i b q fuel done s = some a ↔ ∃ n, n < fuel ∧ FirstAccepted s i q n ∧ answerAt s i b done n = a := by
  induction fuel generalizing done s with
  | zero => simp [rngLoop]
  | succ fuel ih =>
    rw [rngLoop]
    obtain haccepted | hrejected := le_or_gt q.toNat (out s).toNat
    · rw [if_pos (by simpa [drawAccepted] using haccepted), Option.some_inj]
      constructor
      · rintro rfl
        exact ⟨0, fuel.succ_pos, (firstAccepted_zero_iff s i q).mpr haccepted, rfl⟩
      · rintro ⟨n, _, hfirst, rfl⟩
        cases n with
        | zero => rfl
        | succ n => exact absurd ((firstAccepted_succ_iff s i q n).mp hfirst).1 (Nat.not_lt.mpr haccepted)
    · have hanswer : ∀ n, answerAt (adv s i) i b (done + 1) n = answerAt s i b done (n + 1) := by
        intro n
        simp only [answerAt, stateAfter_adv, Nat.add_assoc, Nat.add_comm 1]
      rw [if_neg (by simpa [drawAccepted] using hrejected), ih]
      constructor
      · rintro ⟨n, hn, hfirst, rfl⟩
        exact ⟨n + 1, Nat.succ_lt_succ hn, (firstAccepted_succ_iff s i q n).mpr ⟨hrejected, hfirst⟩, (hanswer n).symm⟩
      · rintro ⟨n, hn, hfirst, rfl⟩
        cases n with
        | zero => exact absurd ((firstAccepted_zero_iff s i q).mp hfirst) (Nat.not_le.mpr hrejected)
        | succ n =>
          exact ⟨n, Nat.lt_of_succ_lt_succ hn, ((firstAccepted_succ_iff s i q n).mp hfirst).2, hanswer n⟩

theorem rng_eq_some_iff {fuel : ℕ} {s i : U64} {b : U32} {a : RngAnswer} :
    rng fuel s i b = some a ↔ ∃ n, n < fuel ∧ FirstAccepted s i (threshold b) n ∧ answerAt s i b 0 n = a :=
  rngLoop_eq_some_iff i b (threshold b) fuel 0 s a

/-- Settles O25: `rng_eq_some_iff`, with the number of draws one more than the number of the first accepted draw. -/
theorem rngIsTheLeastAcceptedDraw : Obligations.RngIsTheLeastAcceptedDraw := by
  unfold Obligations.RngIsTheLeastAcceptedDraw
  intro fuel s i b a _
  rw [rng_eq_some_iff]
  constructor
  · rintro ⟨n, hn, ⟨hrejected, haccepted⟩, rfl⟩
    simp only [answerAt, Nat.zero_add, Nat.add_sub_cancel, reduce_toNat, and_true]
    exact ⟨n.succ_pos, hn, fun k hk => hrejected k (Nat.lt_of_succ_lt_succ hk), haccepted⟩
  · rintro ⟨hpos, hfuel, hrejected, haccepted, hresult, hfinal⟩
    obtain ⟨result, final, draws⟩ := a
    obtain ⟨n, rfl⟩ := Nat.exists_eq_add_of_le' hpos
    refine ⟨n, hfuel, ⟨fun k hk => hrejected k (Nat.succ_lt_succ hk), haccepted⟩, ?_⟩
    rw [answerAt, Nat.zero_add, RngAnswer.mk.injEq]
    exact ⟨BitVec.eq_of_toNat_eq ((reduce_toNat _ b).trans hresult.symm), hfinal.symm, rfl⟩

/-- The step of a rejected draw (R116). -/
theorem step_of_rejected {s : State} {b q : U32} (hrst : rstRaised s = false) (hloop : s.phase = .loop b q)
    (h : (out s.state).toNat < q.toNat) : step s = .next (drawAdvance (passBoundary s)) := by
  rw [step_of_loop hrst hloop, microStep_of_rejected (s := passBoundary s) h]

/-- The step of an accepted draw (R115). -/
theorem step_of_accepted {s : State} {b q : U32} (hrst : rstRaised s = false) (hloop : s.phase = .loop b q)
    (h : q.toNat ≤ (out s.state).toNat) :
    step s = .next
      (writePhase .idle (respond .ok (zext64 (reduce (out s.state) b)) (drawAdvance (passBoundary s)))) := by
  rw [step_of_loop hrst hloop, microStep_of_accepted (s := passBoundary s) h, drawOutput_passBoundary]

/-- In `LOOP` with no `rst`, as many steps as draws are rejected only advance `state`. -/
theorem runSteps_of_rejected {s : State} {b q : U32} (hrst : ∀ x ∈ s.rst, x = false) (hloop : s.phase = .loop b q)
    (m : ℕ) (hrejected : ∀ k, k < m → (out (stateAfter s.state s.inc k)).toNat < q.toNat) :
    runSteps m s = .next { s with state := stateAfter s.state s.inc m, rst := s.rst.drop m } := by
  induction m with
  | zero => rfl
  | succ m ih =>
    have hbefore := ih fun k hk => hrejected k (Nat.lt_succ_of_lt hk)
    rw [runSteps_add 1 hbefore]
    have hnone : rstRaised { s with state := stateAfter s.state s.inc m, rst := s.rst.drop m } = false :=
      rstRaised_of_none fun x hx => hrst x (List.mem_of_mem_drop hx)
    rw [runSteps_succ_of_step (step_of_rejected hnone hloop (hrejected m (Nat.lt_succ_self m))), runSteps_zero]
    exact congrArg _ <| State.ext_fields
      (h1 := rfl) (h2 := rfl) (h3 := rfl) (h4 := rfl) (h5 := rfl)
      (h6 := List.tail_drop)
      (h7 := rfl) (h8 := rfl)

/-- In `LOOP` with no `rst`, the steps up to the first accepted draw end the `RANGE` with its answer. -/
theorem runSteps_of_firstAccepted {s : State} {b q : U32} {n : ℕ} (hrst : ∀ x ∈ s.rst, x = false)
    (hloop : s.phase = .loop b q) (hfirst : FirstAccepted s.state s.inc q n) :
    runSteps (n + 1) s = .next { s with
      state := stateAfter s.state s.inc (n + 1)
      phase := .idle
      rsp := s.rsp ++ [responseWord .ok ((reduce (out (stateAfter s.state s.inc n)) b).setWidth 64)]
      rst := s.rst.drop (n + 1)
      unanswered := false } := by
  have hbefore := runSteps_of_rejected hrst hloop n hfirst.rejected
  rw [runSteps_add 1 hbefore]
  have hnone : rstRaised { s with state := stateAfter s.state s.inc n, rst := s.rst.drop n } = false :=
    rstRaised_of_none fun x hx => hrst x (List.mem_of_mem_drop hx)
  rw [runSteps_succ_of_step (step_of_accepted hnone hloop hfirst.accepted), runSteps_zero]
  exact congrArg _ <| State.ext_fields
    (h1 := rfl) (h2 := rfl) (h3 := rfl) (h4 := rfl) (h5 := rfl)
    (h6 := List.tail_drop)
    (h7 := rfl) (h8 := rfl)

/-- The step that accepts `RANGE b` for a non-zero bound (R113). -/
theorem step_of_range {s : State} {b : U32} {ws : List CmdWord} (hb : b ≠ 0#32) (hidle : s.phase = .idle)
    (hrst : ∀ x ∈ s.rst, x = false) (hcmd : s.cmd = encode (.range b) :: ws) :
    step s = .next (writePhase (.loop b (threshold b)) (writeCmd ws (passBoundary s))) := by
  rw [step_of_command (rstRaised_of_none hrst) hidle hcmd, commandEffect, rangeEffect, if_neg hb]

/-- The run of `RANGE b` while its draws are rejected. -/
theorem runSteps_range_of_rejected {s : State} {b : U32} {ws : List CmdWord} (hb : b ≠ 0#32) (hidle : s.phase = .idle)
    (hrst : ∀ x ∈ s.rst, x = false) (hcmd : s.cmd = encode (.range b) :: ws) {m : ℕ}
    (hrejected : ∀ k, k < m → (out (stateAfter s.state s.inc k)).toNat < (threshold b).toNat) :
    runSteps (m + 1) s = .next { s with
      state := stateAfter s.state s.inc m
      phase := .loop b (threshold b)
      cmd := ws
      rst := s.rst.drop (m + 1) } := by
  have hstep := step_of_range hb hidle hrst hcmd
  rw [runSteps_succ_of_step hstep, runSteps_of_rejected (no_rst_of_step hrst hstep) rfl m hrejected]
  exact congrArg _ <| State.ext_fields
    (h1 := rfl) (h2 := rfl) (h3 := rfl) (h4 := rfl) (h5 := rfl)
    (h6 := List.drop_tail)
    (h7 := rfl) (h8 := rfl)

/-- The run of `RANGE b` to its answer. -/
theorem runSteps_range_of_firstAccepted {s : State} {b : U32} {ws : List CmdWord} {n : ℕ} (hb : b ≠ 0#32)
    (hidle : s.phase = .idle) (hrst : ∀ x ∈ s.rst, x = false) (hcmd : s.cmd = encode (.range b) :: ws)
    (hfirst : FirstAccepted s.state s.inc (threshold b) n) :
    runSteps (n + 2) s = .next { s with
      state := stateAfter s.state s.inc (n + 1)
      cmd := ws
      rsp := s.rsp ++ [responseWord .ok ((reduce (out (stateAfter s.state s.inc n)) b).setWidth 64)]
      rst := s.rst.drop (n + 2)
      unanswered := false } := by
  have hstep := step_of_range hb hidle hrst hcmd
  rw [runSteps_succ_of_step hstep, runSteps_of_firstAccepted (no_rst_of_step hrst hstep) rfl hfirst]
  exact congrArg _ <| State.ext_fields
    (h1 := rfl) (h2 := rfl)
    (h3 := hidle.symm)
    (h4 := rfl) (h5 := rfl)
    (h6 := List.drop_tail)
    (h7 := rfl) (h8 := rfl)

/-- Settles O26: the command level names the first accepted draw, and the run of the micro-steps up to it is the one
described above. -/
theorem microStepsAgreeWithCommandLevel : Obligations.MicroStepsAgreeWithCommandLevel := by
  unfold Obligations.MicroStepsAgreeWithCommandLevel
  intro fuel s b ws a hb hidle hrst hcmd hrng
  obtain ⟨n, _, hfirst, rfl⟩ := rng_eq_some_iff.mp hrng
  have hdraws : (answerAt s.state s.inc b 0 n).draws = n + 1 := congrArg Nat.succ (Nat.zero_add n)
  rw [hdraws]
  refine ⟨fun m hm => runSteps_range_of_rejected hb hidle hrst hcmd fun k hk => hfirst.rejected k (by omega), ?_⟩
  exact runSteps_range_of_firstAccepted hb hidle hrst hcmd hfirst

/-- With an odd increment a draw is accepted within `2 ^ 64` draws (R118): the period reaches the state `2 ^ 64 - 1`,
whose output is above every threshold. -/
theorem exists_firstAccepted {s i : U64} (hodd : i.toNat % 2 = 1) {b : U32} (hb : b ≠ 0#32) :
    ∃ n, n < 2 ^ 64 ∧ FirstAccepted s i (threshold b) n := by
  have hexists : ∃ n, (threshold b).toNat ≤ (out (stateAfter s i n)).toNat ∧ n < 2 ^ 64 := by
    obtain ⟨n, hn, hstate⟩ := exists_stateAfter_eq hodd s 0xFFFFFFFFFFFFFFFF#64
    refine ⟨n, ?_, hn⟩
    rw [hstate, out_allOnes]
    exact (threshold_lt_half hb).le.trans (by decide)
  obtain ⟨haccepted, hlt⟩ := Nat.find_spec hexists
  refine ⟨Nat.find hexists, hlt, fun k hk => ?_, haccepted⟩
  by_contra hge
  exact Nat.find_min hexists hk ⟨Nat.not_lt.mp hge, hk.trans hlt⟩

/-- Settles O27: bound 0 is answered at once; any other bound after its first accepted draw, which exists within
`2 ^ 64` draws. -/
theorem everyRangeEnds : Obligations.EveryRangeEnds := by
  unfold Obligations.EveryRangeEnds
  intro s b ws hidle hodd hrst hcmd
  by_cases hb : b = 0#32
  · subst hb
    have hstep := step_of_command (rstRaised_of_none hrst) hidle hcmd
    have hrun := runSteps_succ_of_step (n := 0) hstep
    rw [commandEffect, rangeEffect, if_pos rfl] at hrun
    exact ⟨1, 0#64, _, by decide, hrun, hidle, rfl, rfl, rfl, fun _ => rfl, fun h => absurd rfl h⟩
  · obtain ⟨n, hn, hfirst⟩ := exists_firstAccepted (s := s.state) hodd hb
    have hrun := runSteps_range_of_firstAccepted hb hidle hrst hcmd hfirst
    refine ⟨n + 2, _, _, by omega, hrun, hidle, rfl, rfl, rfl, fun h => absurd h hb, fun _ => ?_⟩
    rw [BitVec.toNat_setWidth]
    exact (Nat.mod_le _ _).trans_lt (reduce_lt _ hb)

end Sys2Proof.Machine
end

section
/-!
### Host operations on a free channel (spec/45_host_derived.md R130, spec/70_reset_and_hazards.md R179)

A host operation runs its script until the last response: for commands that answer at once that takes as many steps as
there are commands, for a `RANGE` one step more than its draws.
-/

namespace Sys2Proof.Machine

/-- A run that is over after `n` steps and not earlier is found with any fuel from `n` on. -/
theorem runUntilOver_of_runSteps {n : ℕ} {s t : State} (hrun : runSteps n s = .next t) (hover : runOver t = true)
    (hbefore : ∀ m, m < n → ∃ u, runSteps m s = .next u ∧ runOver u = false) {fuel : ℕ} (hfuel : n ≤ fuel) :
    runUntilOver fuel s = some t := by
  induction n generalizing s fuel with
  | zero =>
    cases hrun
    exact runUntilOver_of_over fuel hover
  | succ n ih =>
    obtain ⟨fuel, rfl⟩ := Nat.exists_eq_add_of_le' (Nat.le_trans n.succ_pos hfuel)
    obtain ⟨u, hstep⟩ := step_total s
    obtain ⟨_, hstart, hnot⟩ := hbefore 0 n.succ_pos
    cases hstart
    rw [runSteps_succ_of_step hstep] at hrun
    rw [runUntilOver_of_step hnot hstep]
    refine ih hrun (fun m hm => ?_) (Nat.le_of_succ_le_succ hfuel)
    rw [← runSteps_succ_of_step hstep]
    exact hbefore (m + 1) (Nat.succ_lt_succ hm)

theorem runOver_eq_false_of_cmd {s : State} (h : s.cmd ≠ []) : runOver s = false := by
  simp [runOver, channelFree, h]

theorem runOver_eq_false_of_loop {s : State} {b q : U32} (h : s.phase = .loop b q) : runOver s = false := by
  simp [runOver, channelFree, h]

/-- A host operation that issues commands, by the run of its script and the responses `rs` it adds. -/
theorem hostRun_of_issues {op : HostOp} {cs : List Instr} {fuel : ℕ} {s t : State} {rs : List RspWord}
    (hplan : hostPlan op = .issues cs) (hfree : channelFree s = true)
    (hrun : runUntilOver fuel (beginScript (cs.map encode) s) = some t) (hrsp : t.rsp = s.rsp ++ rs) :
    hostRun fuel op s = some (hostReply op cs.length rs, t) := by
  have hnew : t.rsp.drop s.rsp.length = rs := by rw [hrsp, List.drop_left]
  simp only [hostRun, hplan, hfree, hrun, hnew, if_true]

/-- When every command was answered `OK`, the reply is the operation's value. -/
theorem hostReply_of_ok (op : HostOp) (data : List U64) :
    hostReply op data.length (data.map (responseWord .ok)) = .value (hostValue op data) := by
  have hok : (data.map (responseWord .ok)).find? (fun r => responseStatus r != statusCode .ok) = none := by
    simp
  have hdata : (data.map (responseWord .ok)).map responseData = data := by
    simp [Function.comp_def]
  have hlength : ¬ (data.map (responseWord .ok)).length ≠ data.length := by simp
  rw [hostReply, if_neg hlength, hok, hdata]

/-- A single response that is not `OK` is the reply's failure (R133). -/
theorem hostReply_of_error (op : HostOp) {st : Status} (hst : statusCode st ≠ statusCode .ok) (d : U64) :
    hostReply op 1 [responseWord st d] = .failed (statusCode st) := by
  simp [hostReply, hst]

/-- The same when every command was answered `OK`, with `data`. -/
theorem hostRun_of_ok {op : HostOp} {cs : List Instr} {fuel : ℕ} {s t : State} {data : List U64}
    (hplan : hostPlan op = .issues cs) (hfree : channelFree s = true)
    (hrun : runUntilOver fuel (beginScript (cs.map encode) s) = some t)
    (hrsp : t.rsp = s.rsp ++ data.map (responseWord .ok)) (hlength : data.length = cs.length) :
    hostRun fuel op s = some (.value (hostValue op data), t) := by
  rw [← hostReply_of_ok, hlength]
  exact hostRun_of_issues hplan hfree hrun hrsp

/-- Where the last command was answered none is left without an answer. -/
theorem Answering.unanswered {i : Instr} (h : Answering i) (s : State) : (commandEffect i s).unanswered = false := by
  generalize ht : commandEffect i s = t
  have houtcome := commandOutcome i s
  rw [ht] at houtcome
  cases houtcome with
  | enters b _ => exact absurd rfl (h b)
  | _ => rfl

theorem afterCommands_phase {is : List Instr} (his : ∀ i ∈ is, Answering i) (s : State) :
    (afterCommands is s).phase = s.phase := by
  induction is generalizing s with
  | nil => rfl
  | cons i is ih =>
    obtain ⟨hi, his⟩ := List.forall_mem_cons.mp his
    rw [afterCommands, ih his, hi.phase]

theorem afterCommands_unanswered {is : List Instr} (his : ∀ i ∈ is, Answering i) {s : State}
    (hs : s.unanswered = false) : (afterCommands is s).unanswered = false := by
  induction is generalizing s with
  | nil => exact hs
  | cons i is ih =>
    obtain ⟨hi, his⟩ := List.forall_mem_cons.mp his
    exact ih his (hi.unanswered s)

/-- The engine after a script of commands that answer at once. -/
def afterScript (cs : List Instr) (s : State) : State :=
  withPorts [] (s.rst.drop cs.length) (afterCommands cs (beginScript (cs.map encode) s))

theorem runOver_afterScript {cs : List Instr} (hcs : ∀ i ∈ cs, Answering i) {s : State} (hidle : s.phase = .idle) :
    runOver (afterScript cs s) = true :=
  runOver_iff.mpr ⟨(afterCommands_phase hcs _).trans hidle, rfl, afterCommands_unanswered hcs rfl⟩

theorem runUntilOver_script {cs : List Instr} (hcs : ∀ i ∈ cs, Answering i) {s : State} (hidle : s.phase = .idle)
    (hrst : ∀ x ∈ s.rst, x = false) :
    runUntilOver cs.length (beginScript (cs.map encode) s) = some (afterScript cs s) := by
  have hrun := runSteps_of_commands (ws := []) cs (s := beginScript (cs.map encode) s) hcs hidle hrst
    (List.append_nil _).symm
  refine runUntilOver_of_runSteps hrun (runOver_afterScript hcs hidle) (fun m hm => ?_) le_rfl
  have hsplit : (beginScript (cs.map encode) s).cmd = (cs.take m).map encode ++ (cs.drop m).map encode := by
    rw [← List.map_append, List.take_append_drop, beginScript_cmd]
  have htaken : ∀ i ∈ cs.take m, Answering i := fun i hi => hcs i (List.mem_of_mem_take hi)
  have hpart := runSteps_of_commands (cs.take m) (s := beginScript (cs.map encode) s) htaken hidle hrst hsplit
  rw [List.length_take_of_le hm.le] at hpart
  refine ⟨_, hpart, runOver_eq_false_of_cmd ?_⟩
  show (cs.drop m).map encode ≠ []
  simpa using hm

/-- A host operation whose commands answer at once, by the responses `rs` they add. -/
theorem hostRun_of_commands {op : HostOp} {cs : List Instr} {s : State} {rs : List RspWord}
    (hplan : hostPlan op = .issues cs) (hcs : ∀ i ∈ cs, Answering i) (hfree : channelFree s = true)
    (hrst : ∀ x ∈ s.rst, x = false) (hrsp : (afterScript cs s).rsp = s.rsp ++ rs) :
    hostRun cs.length op s = some (hostReply op cs.length rs, afterScript cs s) :=
  hostRun_of_issues hplan hfree (runUntilOver_script hcs (channelFree_iff.mp hfree).1 hrst) hrsp

theorem hostRun_of_ok_commands {op : HostOp} {cs : List Instr} {s : State} {data : List U64}
    (hplan : hostPlan op = .issues cs) (hcs : ∀ i ∈ cs, Answering i) (hfree : channelFree s = true)
    (hrst : ∀ x ∈ s.rst, x = false) (hrsp : (afterScript cs s).rsp = s.rsp ++ data.map (responseWord .ok))
    (hlength : data.length = cs.length) :
    hostRun cs.length op s = some (.value (hostValue op data), afterScript cs s) :=
  hostRun_of_ok hplan hfree (runUntilOver_script hcs (channelFree_iff.mp hfree).1 hrst) hrsp hlength

theorem answering_singleton {i : Instr} (h : Answering i) : ∀ j ∈ [i], Answering j := by
  intro j hj
  rwa [List.mem_singleton.mp hj]

theorem answering_seed (a b : U64) : Answering (.seed a b) := by
  intro c h
  cases h

theorem answering_seedState (a : U64) : Answering (.seedState a) := by
  intro c h
  cases h

/-- A constructor that issues `SEED_STATE v` (R131, R132). -/
theorem hostRun_seedState {op : HostOp} {v : U64} {s : State} (hplan : hostPlan op = .issues [.seedState v])
    (hfree : channelFree s = true) (hrst : ∀ x ∈ s.rst, x = false) :
    hostRun 1 op s = some (.value (hostValue op [0#64]), afterScript [.seedState v] s) :=
  hostRun_of_ok_commands (data := [0#64]) hplan (answering_singleton (answering_seedState v)) hfree hrst rfl rfl

theorem afterScript_seed_of_odd {b : U64} (hodd : b.toNat % 2 = 1) (a : U64) (s : State) :
    afterScript [.seed a b] s =
      withPorts [] (s.rst.drop 1) (respond .ok 0#64 (writeInc b (writeState a (beginScript [encode (.seed a b)] s)))) :=
  congrArg _ (seedEffect_of_odd hodd a _)

theorem afterScript_seed_of_even {b : U64} (heven : b.toNat % 2 = 0) (a : U64) (s : State) :
    afterScript [.seed a b] s =
      withPorts [] (s.rst.drop 1) (reject .invalidSequence (beginScript [encode (.seed a b)] s)) :=
  congrArg _ (seedEffect_of_even heven a _)

/-- Settles O52: each constructor is one seeding command, which answers `OK` and writes both registers, but for the even
sequence, which answers its error and writes none. -/
theorem constructorsSeedTheEngine : Obligations.ConstructorsSeedTheEngine := by
  unfold Obligations.ConstructorsSeedTheEngine
  intro v q s hfree hrst
  obtain ⟨hidle, _⟩ := channelFree_iff.mp hfree
  have hseedState := runOver_afterScript (answering_singleton (answering_seedState v)) hidle
  have hseed := runOver_afterScript (answering_singleton (answering_seed v q)) hidle
  refine ⟨⟨_, hostRun_seedState rfl hfree hrst, rfl, rfl, hseedState⟩,
    ⟨_, hostRun_seedState rfl hfree hrst, rfl, rfl, hseedState⟩, fun hodd => ?odd, fun heven => ?even⟩
  case odd =>
    have hafter := afterScript_seed_of_odd hodd v s
    have hrun := hostRun_of_ok_commands (op := .newStateSequence v q) (data := [0#64]) rfl
      (answering_singleton (answering_seed v q)) hfree hrst (congrArg State.rsp hafter) rfl
    exact ⟨_, hrun, congrArg State.state hafter, congrArg State.inc hafter, hseed⟩
  case even =>
    have hafter := afterScript_seed_of_even heven v s
    have hrun := hostRun_of_commands (op := .newStateSequence v q) rfl (answering_singleton (answering_seed v q)) hfree
      hrst (congrArg State.rsp hafter)
    have hreply := hostReply_of_error (.newStateSequence v q) (st := .invalidSequence) (by decide) 0#64
    refine ⟨afterScript [.seed v q] s, hrun.trans (congrArg (fun reply => some (reply, _)) hreply), ?_, ?_, hseed⟩
    · rw [hafter]
      rfl
    · rw [hafter]
      rfl

/-- The calls whose argument check fails, and with what (R143). -/
theorem hostPlan_eq_fails_iff (op : HostOp) (st : Status) :
    hostPlan op = .fails st ↔
      st = .invalidBound ∧
        ((∃ m, op = .nextMax m ∧ m.toInt < 0) ∨ ∃ a b, op = .nextMinMax a b ∧ b.toInt ≤ a.toInt) := by
  cases op with
  | nextMax m =>
    obtain hneg | hnonneg := lt_or_ge m.toInt 0
    · simp [hostPlan, hneg, eq_comm]
    · have hnot := not_lt.mpr hnonneg
      rw [hostPlan, if_neg hnot]
      split <;> simp [hnot]
  | nextMinMax a b =>
    obtain hlt | hge := lt_or_ge a.toInt b.toInt
    · simp [hostPlan, hlt, not_le.mpr hlt]
    · simp [hostPlan, not_lt.mpr hge, hge, eq_comm]
  | _ => simp [hostPlan]

/-- Settles O53: by the operation, the plan fails only in the two samplers with bounds; a failed plan is answered with
its code and the engine as it was. -/
theorem invalidBoundIssuesNoCommand : Obligations.InvalidBoundIssuesNoCommand := by
  unfold Obligations.InvalidBoundIssuesNoCommand
  intro op st
  refine ⟨hostPlan_eq_fails_iff op st, fun hfails fuel s => ?_⟩
  obtain ⟨rfl, _⟩ := (hostPlan_eq_fails_iff op st).mp hfails
  rw [hostRun, hfails]
  rfl

end Sys2Proof.Machine
end

section
/-!
### The samplers (spec/45_host_derived.md R134 to R142)
-/

namespace Sys2Proof.Machine

@[simp] theorem low32_setWidth (r : U32) : low32 (r.setWidth 64) = r := by
  apply BitVec.eq_of_toNat_eq
  have hr := r.isLt
  rw [low32, BitVec.extractLsb'_toNat, Nat.shiftRight_zero, BitVec.toNat_setWidth, Nat.mod_mod_of_dvd _ (by decide)]
  exact Nat.mod_eq_of_lt hr

/-- A sampler that issues one `RANGE`, by the answer of the command level. -/
theorem hostRun_range {op : HostOp} {b : U32} {fuel : ℕ} {s : State} {a : RngAnswer}
    (hplan : hostPlan op = .issues [.range b]) (hb : b ≠ 0#32) (hfree : channelFree s = true)
    (hrst : ∀ x ∈ s.rst, x = false) (hrng : rng fuel s.state s.inc b = some a) :
    ∃ t, hostRun (fuel + 1) op s = some (.value (hostValue op [a.result.setWidth 64]), t) ∧ t.state = a.final ∧
      a.result.toNat < b.toNat := by
  obtain ⟨hidle, _⟩ := channelFree_iff.mp hfree
  obtain ⟨n, hn, hfirst, rfl⟩ := rng_eq_some_iff.mp hrng
  have hrun := runSteps_range_of_firstAccepted (s := beginScript [encode (.range b)] s) hb hidle hrst rfl hfirst
  have hover := runUntilOver_of_runSteps hrun (runOver_iff.mpr ⟨hidle, rfl, rfl⟩)
    (fun m hm => ?before) (fuel := fuel + 1) (by omega)
  case before =>
    cases m with
    | zero => exact ⟨_, rfl, runOver_eq_false_of_cmd (List.cons_ne_nil _ _)⟩
    | succ m =>
      have hpart := runSteps_range_of_rejected (s := beginScript [encode (.range b)] s) hb hidle hrst rfl
        (m := m) fun k hk => hfirst.rejected k (by omega)
      exact ⟨_, hpart, runOver_eq_false_of_loop rfl⟩
  have hhost := hostRun_of_ok (data := [(reduce (out (stateAfter s.state s.inc n)) b).setWidth 64])
    hplan hfree hover rfl rfl
  exact ⟨_, hhost, rfl, reduce_lt _ hb⟩

/-- A positive `i32` is below half the range. -/
theorem toNat_lt_of_toInt_pos {m : U32} (h : 0 < m.toInt) : m.toNat < 2 ^ 31 ∧ m.toInt = m.toNat := by
  rw [BitVec.toInt_eq_toNat_cond] at h ⊢
  have hm := m.isLt
  split at h <;> omega

/-- The difference of two `i32` values, taken in 32-bit words, is exact (R136, D24). -/
theorem minMaxBound_eq {lo hi b : U32} (h : (b.toNat : ℤ) = hi.toInt - lo.toInt) : minMaxBound lo hi = b := by
  apply BitVec.eq_of_toNat_eq
  rw [BitVec.toInt_eq_toNat_cond, BitVec.toInt_eq_toNat_cond] at h
  have hlo := lo.isLt
  have hhi := hi.isLt
  have hb := b.isLt
  rw [minMaxBound, BitVec.toNat_sub]
  split at h <;> split at h <;> omega

/-- Adding an offset below the difference to the lower bound, in 32-bit words, is exact (R136, D24). -/
theorem minMaxResult_toInt {lo hi r : U32} (h : (r.toNat : ℤ) < hi.toInt - lo.toInt) :
    (minMaxResult lo r).toInt = r.toNat + lo.toInt := by
  have hlo := lo.isLt
  have hhi := BitVec.toInt_lt (x := hi)
  have hr := r.isLt
  rw [minMaxResult, BitVec.toInt_eq_toNat_cond, BitVec.toNat_add]
  rw [BitVec.toInt_eq_toNat_cond (x := lo)] at h ⊢
  split at h <;> split <;> omega

/-- Settles O54: each sampler issues one `RANGE` with its bound, so it answers from the command level's result, which is
below the bound; the ranges are arithmetic of `i32`. -/
theorem signedSamplersAnswerInRange : Obligations.SignedSamplersAnswerInRange := by
  unfold Obligations.SignedSamplersAnswerInRange
  intro fuel s hfree hrst
  refine ⟨fun a hrng => ?nextI32, fun m a hm hrng => ?nextMax, rfl, fun lo hi b a hlt hb hrng => ?nextMinMax⟩
  case nextI32 =>
    obtain ⟨t, hrun, hstate, hbelow⟩ := hostRun_range (op := .nextI32) rfl (by decide) hfree hrst hrng
    rw [hostValue, List.headD_cons, low32_setWidth] at hrun
    have hbelow' : a.result.toNat < 2 ^ 31 - 1 := hbelow
    have hvalue := BitVec.toInt_eq_toNat_of_lt (x := a.result) (by omega)
    exact ⟨t, hrun, hstate, by omega, by omega⟩
  case nextMax =>
    obtain ⟨hsmall, hmvalue⟩ := toNat_lt_of_toInt_pos hm
    have hm0 : m ≠ 0#32 := by
      rintro rfl
      exact absurd hm (by decide)
    have hplan : hostPlan (.nextMax m) = .issues [.range m] := by
      rw [hostPlan, if_neg (not_lt.mpr hm.le), if_neg hm0]
    obtain ⟨t, hrun, hstate, hbelow⟩ := hostRun_range hplan hm0 hfree hrst hrng
    rw [hostValue, List.headD_cons, low32_setWidth] at hrun
    have hvalue := BitVec.toInt_eq_toNat_of_lt (x := a.result) (by omega)
    exact ⟨t, hrun, hstate, by omega, by omega⟩
  case nextMinMax =>
    have hb0 : b ≠ 0#32 := by
      rintro rfl
      rw [BitVec.toNat_ofNat] at hb
      omega
    have hplan : hostPlan (.nextMinMax lo hi) = .issues [.range b] := by
      rw [hostPlan, if_pos hlt, minMaxBound_eq hb]
    obtain ⟨t, hrun, hstate, hbelow⟩ := hostRun_range hplan hb0 hfree hrst hrng
    rw [hostValue, List.headD_cons, low32_setWidth] at hrun
    have hvalue := minMaxResult_toInt (lo := lo) (hi := hi) (r := a.result) (by omega)
    exact ⟨_, t, hrun, hstate, hvalue, by omega, by omega⟩

/-- An operation that issues `n` draws and nothing else, by what its arithmetic makes of them. -/
theorem hostRun_draws {op : HostOp} {n : ℕ} {s : State} (hplan : hostPlan op = .issues (List.replicate n .nextU32))
    (hfree : channelFree s = true) (hrst : ∀ x ∈ s.rst, x = false) :
    ∃ t, hostRun n op s = some (.value (hostValue op
        ((List.range n).map fun k => (out (stateAfter s.state s.inc k)).setWidth 64)), t) ∧
      t.state = stateAfter s.state s.inc n ∧ t.inc = s.inc := by
  have hdraws : ∀ i ∈ List.replicate n Instr.nextU32, Answering i := by
    intro i hi
    rw [List.eq_of_mem_replicate hi]
    exact answering_nextU32
  have hafter := afterCommands_replicate_nextU32 n (beginScript ((List.replicate n .nextU32).map encode) s)
  have hstate : (afterScript (List.replicate n .nextU32) s).state = stateAfter s.state s.inc n :=
    congrArg State.state hafter
  have hinc : (afterScript (List.replicate n .nextU32) s).inc = s.inc :=
    (congrArg State.inc hafter).trans rfl
  have hrsp : (afterScript (List.replicate n .nextU32) s).rsp = s.rsp ++ drawResponses s.state s.inc n :=
    congrArg State.rsp hafter
  have hdata : drawResponses s.state s.inc n =
      ((List.range n).map fun k => (out (stateAfter s.state s.inc k)).setWidth 64).map (responseWord .ok) := by
    rw [List.map_map]
    rfl
  have hrun := hostRun_of_ok_commands hplan hdraws hfree hrst (hrsp.trans (by rw [hdata])) (by simp)
  rw [List.length_replicate] at hrun
  exact ⟨_, hrun, hstate, hinc⟩

/-- Settles O55: both operations issue one `NEXT_U32` and make the same word of its answer. -/
theorem sampleDrawsOnce : Obligations.SampleDrawsOnce := by
  unfold Obligations.SampleDrawsOnce
  intro s hfree hrst
  obtain ⟨t, hrun, hstate, hinc⟩ := hostRun_draws (op := .sample) (n := 1) rfl hfree hrst
  refine ⟨t, hrun.trans ?_, hstate, hinc, rfl⟩
  rw [List.range_one, List.map_singleton, hostValue, List.headD_cons, low32_setWidth]
  rfl

/-- The text of R142 with both numbers in unsigned decimal. -/
theorem debugString_eq (s i : U64) :
    debugString s i = "[PCG32 state: " ++ Nat.repr s.toNat ++ ", sequence: " ++ Nat.repr i.toNat ++ "]" := by
  unfold debugString
  with_reducible rfl

/-- Settles O58: the two read-outs answer both registers and change none. -/
theorem debugTextShowsBothRegisters : Obligations.DebugTextShowsBothRegisters := by
  unfold Obligations.DebugTextShowsBothRegisters
  intro s hfree hrst
  have hreads : ∀ i ∈ [Instr.rdState, .rdInc], Answering i := by
    intro i hi
    exact answering_of_readOut (by simpa using hi)
  have hrsp : (afterScript [.rdState, .rdInc] s).rsp = s.rsp ++ [s.state, s.inc].map (responseWord .ok) :=
    List.append_assoc _ _ _
  have hrun := hostRun_of_ok_commands (op := .debugText) rfl hreads hfree hrst hrsp rfl
  refine ⟨afterScript [.rdState, .rdInc] s, ?_, rfl, rfl, rfl⟩
  rw [← debugString_eq]
  exact hrun

end Sys2Proof.Machine
end

section
/-!
### The sample as a binary64 word (spec/45_host_derived.md R137, R139)

A draw `r` that is not 0 is `2 ^ L * (1 + f)` with `L` the place of its leading one; the word holds `L - 32` and `f`.
-/

namespace Sys2Proof.Machine

theorem log2_lt {r : U32} (hr : r ≠ 0#32) : Nat.log2 r.toNat < 32 :=
  (Nat.log2_lt (toNat_pos_of_ne_zero hr).ne').mpr r.isLt

/-- The bits below the leading one, at the top of the fraction. -/
def sampleFraction (r : U32) : ℕ := 2 ^ (52 - Nat.log2 r.toNat) * (r.toNat - 2 ^ Nat.log2 r.toNat)

theorem sampleFraction_lt {r : U32} (hr : r ≠ 0#32) : sampleFraction r < 2 ^ 52 := by
  have hlog := log2_lt hr
  have hbelow : r.toNat - 2 ^ Nat.log2 r.toNat < 2 ^ Nat.log2 r.toNat := by
    have hupper : r.toNat < 2 ^ (Nat.log2 r.toNat + 1) := Nat.lt_log2_self
    rw [Nat.pow_succ] at hupper
    omega
  calc sampleFraction r < 2 ^ (52 - Nat.log2 r.toNat) * 2 ^ Nat.log2 r.toNat :=
        Nat.mul_lt_mul_of_pos_left hbelow (by positivity)
    _ = 2 ^ 52 := by rw [← Nat.pow_add, Nat.sub_add_cancel (by omega)]

/-- The word's number: the biased exponent above the fraction. -/
theorem sampleWord_toNat {r : U32} (hr : r ≠ 0#32) :
    (sampleWord r).toNat = 2 ^ 52 * (991 + Nat.log2 r.toNat) + sampleFraction r := by
  have hlog := log2_lt hr
  have hfraction := sampleFraction_lt hr
  have hexponent : 1023 + Nat.log2 r.toNat - 32 = 991 + Nat.log2 r.toNat := by omega
  rw [sampleWord, if_neg hr, BitVec.toNat_ofNat, ← sampleFraction, hexponent]
  exact Nat.mod_eq_of_lt (by omega)

/-- The value of a word with sign 0 and an exponent of a normal number. -/
theorem f64Value_of_normal {w : U64} {e f : ℕ} (hw : w.toNat = 2 ^ 52 * e + f) (hf : f < 2 ^ 52) (he0 : e ≠ 0)
    (he : e < 2047) : f64Value w = some ((1 + (f : ℚ) / 2 ^ 52) * 2 ^ e / 2 ^ 1023) := by
  have hsign : w.toNat / 2 ^ 63 ≠ 1 := by omega
  have hexponent : w.toNat / 2 ^ 52 % 2 ^ 11 = e := by omega
  have hfraction : w.toNat % 2 ^ 52 = f := by omega
  have hfinite : e ≠ 2047 := he.ne
  simp only [f64Value, hsign, hexponent, hfraction, hfinite, he0, if_false, one_mul]

/-- The number is the one with its leading one and fraction. -/
theorem sampleFraction_value {r : U32} (hr : r ≠ 0#32) :
    (1 + (sampleFraction r : ℚ) / 2 ^ 52) * 2 ^ Nat.log2 r.toNat = r.toNat := by
  have hlog := log2_lt hr
  have hle : 2 ^ Nat.log2 r.toNat ≤ r.toNat := Nat.log2_self_le (toNat_pos_of_ne_zero hr).ne'
  have hpow : (2 : ℚ) ^ 52 = 2 ^ (52 - Nat.log2 r.toNat) * 2 ^ Nat.log2 r.toNat := by
    rw [← pow_add, Nat.sub_add_cancel (by omega)]
  rw [sampleFraction, hpow]
  push_cast [Nat.cast_sub hle]
  field_simp
  ring

/-- The sample is exact (R139). -/
theorem f64Value_sampleWord (r : U32) : f64Value (sampleWord r) = some ((r.toNat : ℚ) / 2 ^ 32) := by
  by_cases hr : r = 0#32
  · subst hr
    simp [sampleWord, f64Value]
  · have hlog := log2_lt hr
    have hbias : (2 : ℚ) ^ 1023 = 2 ^ 991 * 2 ^ 32 := by rw [← pow_add]
    rw [f64Value_of_normal (sampleWord_toNat hr) (sampleFraction_lt hr) (by omega) (by omega),
      ← sampleFraction_value hr, pow_add, hbias]
    congr 1
    field_simp

/-- Settles O56: the word's value is the quotient, from which the draw is read back. -/
theorem sampleIsExact : Obligations.SampleIsExact := by
  unfold Obligations.SampleIsExact
  intro r
  have hlt : (r.toNat : ℚ) < 2 ^ 32 := by exact_mod_cast r.isLt
  refine ⟨f64Value_sampleWord r, by positivity, (div_lt_one (by positivity)).mpr hlt, fun r' h => ?_⟩
  have hvalue := congrArg f64Value h
  rw [f64Value_sampleWord, f64Value_sampleWord, Option.some_inj, div_left_inj' (by positivity)] at hvalue
  exact BitVec.eq_of_toNat_eq (by exact_mod_cast hvalue)

end Sys2Proof.Machine
end

section
/-!
### Filling a buffer (spec/45_host_derived.md R140, R141)
-/

namespace Sys2Proof.Machine

/-- Byte `j` of a draw, lowest first (R140). -/
def drawByte (r : U32) (j : ℕ) : U8 := r.extractLsb' (8 * j) 8

theorem drawBytes_getElem? (r : U32) {j : ℕ} (hj : j < 4) : (drawBytes r)[j]? = some (drawByte r j) := by
  match j, hj with
  | 0, _ => rfl
  | 1, _ => rfl
  | 2, _ => rfl
  | 3, _ => rfl

/-- A write leaves the bytes before it. -/
theorem writeBytes_getElem?_of_lt {buf bs : List U8} {off m : ℕ} (hoff : off ≤ buf.length) (hm : m < off) :
    (writeBytes buf off bs)[m]? = buf[m]? := by
  have htake : m < (buf.take off).length := by
    rw [List.length_take]
    omega
  rw [writeBytes, List.append_assoc, List.getElem?_append_left htake, List.getElem?_take_of_lt hm]

/-- A write puts its bytes at its offset. -/
theorem writeBytes_getElem?_add {buf bs : List U8} {off j : ℕ} (hoff : off ≤ buf.length) (hj : j < bs.length) :
    (writeBytes buf off bs)[off + j]? = bs[j]? := by
  have htake : (buf.take off).length = off := List.length_take_of_le hoff
  rw [writeBytes, List.append_assoc, List.getElem?_append_right (by omega), htake, Nat.add_sub_cancel_left,
    List.getElem?_append_left hj]

/-- The bytes one iteration of R141 writes. -/
def chunk (r : U32) (room : ℕ) : List U8 := (drawBytes r).take (min 4 room)

theorem chunk_length (r : U32) (room : ℕ) : (chunk r room).length = min 4 room := by
  simp [chunk, drawBytes]

theorem chunk_getElem? (r : U32) {room j : ℕ} (hj : j < min 4 room) : (chunk r room)[j]? = some (drawByte r j) := by
  rw [chunk, List.getElem?_take_of_lt hj, drawBytes_getElem? r (by omega)]

theorem fillBuffer_cons (r : U32) (rs : List U32) (off : ℕ) (buf : List U8) :
    fillBuffer (r :: rs) off buf =
      fillBuffer rs (off + min 4 (buf.length - off)) (writeBytes buf off (chunk r (buf.length - off))) := rfl

/-- The buffer after one iteration has its length. -/
theorem writeBytes_chunk_length (r : U32) {off : ℕ} {buf : List U8} (hoff : off ≤ buf.length) :
    (writeBytes buf off (chunk r (buf.length - off))).length = buf.length :=
  writeBytes_length (by rw [chunk_length]; omega)

theorem fillBuffer_length (rs : List U32) {off : ℕ} {buf : List U8} (hoff : off ≤ buf.length) :
    (fillBuffer rs off buf).length = buf.length := by
  induction rs generalizing off buf with
  | nil => rfl
  | cons r rs ih =>
    have hlength := writeBytes_chunk_length r hoff
    rw [fillBuffer_cons, ih (by rw [hlength]; omega), hlength]

/-- What was written before the offset stays. -/
theorem fillBuffer_getElem?_of_lt (rs : List U32) {off m : ℕ} {buf : List U8} (hoff : off ≤ buf.length) (hm : m < off) :
    (fillBuffer rs off buf)[m]? = buf[m]? := by
  induction rs generalizing off buf with
  | nil => rfl
  | cons r rs ih =>
    have hlength := writeBytes_chunk_length r hoff
    rw [fillBuffer_cons, ih (by rw [hlength]; omega) (by omega), writeBytes_getElem?_of_lt hoff hm]

/-- Byte `j` from the offset on is byte `j mod 4` of draw `j / 4`, when there are draws enough. -/
theorem fillBuffer_getElem?_add (rs : List U32) {off j : ℕ} {buf : List U8} (hroom : off + j < buf.length)
    (hdraws : j < 4 * rs.length) : (fillBuffer rs off buf)[off + j]? = rs[j / 4]?.map (drawByte · (j % 4)) := by
  induction rs generalizing off j buf with
  | nil => exact absurd hdraws (Nat.not_lt_zero j)
  | cons r rs ih =>
    have hoff : off ≤ buf.length := by omega
    have hlength := writeBytes_chunk_length r hoff
    rw [fillBuffer_cons]
    obtain hfirst | hlater := Nat.lt_or_ge j 4
    · have hchunk : j < min 4 (buf.length - off) := by omega
      rw [fillBuffer_getElem?_of_lt rs (by rw [hlength]; omega) (by omega),
        writeBytes_getElem?_add hoff (by rwa [chunk_length]), chunk_getElem? r hchunk, Nat.div_eq_of_lt hfirst,
        Nat.mod_eq_of_lt hfirst]
      rfl
    · obtain ⟨j, rfl⟩ := Nat.exists_eq_add_of_le hlater
      have hfull : min 4 (buf.length - off) = 4 := by omega
      rw [List.length_cons] at hdraws
      rw [hfull, ← Nat.add_assoc, ih (by rw [hlength]; omega) (by omega), Nat.add_comm 4 j,
        Nat.add_div_right j (by decide), Nat.add_mod_right, List.getElem?_cons_succ]

/-- Settles O57: the operation makes the draws of R141, enough for the buffer, and its arithmetic is the loop of R141
from offset 0. -/
theorem nextBytesFillsTheBuffer : Obligations.NextBytesFillsTheBuffer := by
  unfold Obligations.NextBytesFillsTheBuffer
  intro buf s hfree hrst
  obtain ⟨t, hrun, hstate, hinc⟩ := hostRun_draws (op := .nextBytes buf) rfl hfree hrst
  refine ⟨_, t, hrun, fillBuffer_length _ (Nat.zero_le _), hstate, hinc, fun m hm => ?_⟩
  have hdraw : m / 4 < drawsForBytes buf.length := by
    unfold drawsForBytes
    omega
  have hbyte := fillBuffer_getElem?_add (off := 0) (j := m) (buf := buf)
    (((List.range (drawsForBytes buf.length)).map fun k => (out (stateAfter s.state s.inc k)).setWidth 64).map low32)
    (by omega) (by simp; omega)
  rw [Nat.zero_add] at hbyte
  rw [hbyte, List.map_map, List.getElem?_map, List.getElem?_range hdraw]
  simp [drawByte]

end Sys2Proof.Machine
end

section
/-!
### Script lines (spec/30_encoding.md R71)

A written line is made of words of plain characters, which no part of the reading cuts: the mnemonic, and operands in
hexadecimal, whose digits are read back to their number.
-/

namespace Sys2Proof.Machine

/-- The character stands for itself in a line: it neither separates words or operands nor starts a comment. -/
structure Plain (c : Char) : Prop where
  not_blank : isBlank c = false
  not_comma : c ≠ ','
  not_comment : c ≠ ';'

/-- A word of a line: plain characters, at least one. -/
structure PlainWord (cs : List Char) : Prop where
  ne_nil : cs ≠ []
  plain : ∀ c ∈ cs, Plain c

/-! #### Digits -/

theorem digitValue_digitChar {d : ℕ} (hd : d < 16) : digitValue (digitChar d) = some d := by
  have hall : ∀ d : Fin 16, digitValue (digitChar d) = some d.val := by decide
  exact hall ⟨d, hd⟩

theorem digitChar_plain {d : ℕ} (hd : d < 16) : Plain (digitChar d) := by
  have hall : ∀ d : Fin 16, isBlank (digitChar d) = false ∧ digitChar d ≠ ',' ∧ digitChar d ≠ ';' := by decide
  obtain ⟨hblank, hcomma, hcomment⟩ := hall ⟨d, hd⟩
  exact ⟨hblank, hcomma, hcomment⟩

theorem readDigits_append_digitChar (cs : List Char) {acc n d : ℕ} (hd : d < 16)
    (h : readDigits 16 acc cs = some n) : readDigits 16 acc (cs ++ [digitChar d]) = some (n * 16 + d) := by
  induction cs generalizing acc with
  | nil =>
    cases h
    simp [readDigits, digitValue_digitChar hd, hd]
  | cons c cs ih =>
    rw [readDigits] at h
    rw [List.cons_append, readDigits]
    cases hvalue : digitValue c with
    | none => simp [hvalue] at h
    | some e =>
      simp only [hvalue] at h ⊢
      split at h
      · rw [if_pos ‹_›]
        exact ih h
      · cases h

/-- Hexadecimal digits read back as the number they were written for. -/
theorem readDigits_hexDigits (k n : ℕ) : readDigits 16 0 (hexDigits k n) = some (n % 16 ^ k) := by
  induction k generalizing n with
  | zero => simp [hexDigits, readDigits, Nat.mod_one]
  | succ k ih =>
    rw [hexDigits, readDigits_append_digitChar _ (Nat.mod_lt n (by decide)) (ih (n / 16)), Nat.pow_succ',
      Nat.mod_mul, Nat.mul_comm, Nat.add_comm]

theorem hexDigits_length (k n : ℕ) : (hexDigits k n).length = k := by
  induction k generalizing n with
  | zero => rfl
  | succ k ih => rw [hexDigits, List.length_append, ih, List.length_singleton]

theorem hexDigits_plain (k n : ℕ) : ∀ c ∈ hexDigits k n, Plain c := by
  induction k generalizing n with
  | zero => exact fun c hc => absurd hc List.not_mem_nil
  | succ k ih =>
    intro c hc
    rw [hexDigits, List.mem_append, List.mem_singleton] at hc
    obtain hc | rfl := hc
    · exact ih (n / 16) c hc
    · exact digitChar_plain (Nat.mod_lt n (by decide))

theorem hexNumber_plainWord (k n : ℕ) : PlainWord (hexNumber k n) := by
  refine ⟨List.cons_ne_nil _ _, fun c hc => ?_⟩
  obtain rfl | hc := List.mem_cons.mp hc
  · exact ⟨rfl, by decide, by decide⟩
  obtain rfl | hc := List.mem_cons.mp hc
  · exact ⟨rfl, by decide, by decide⟩
  · exact hexDigits_plain k n c hc

theorem readNumber_hexNumber {k : ℕ} (hk : 0 < k) (n : ℕ) : readNumber (hexNumber k n) = some (n % 16 ^ k) := by
  have hne : hexDigits k n ≠ [] := by
    rw [← List.length_pos_iff, hexDigits_length]
    exact hk
  rw [hexNumber, readNumber]
  · exact readDigits_hexDigits k n
  · exact hne

/-- An operand of `4 k` bits, written in full width, is read back. -/
theorem readOperand_hexNumber {w k : ℕ} (hk : 0 < k) (hw : 2 ^ w = 16 ^ k) (x : BitVec w) :
    readOperand w (hexNumber k x.toNat) = some x := by
  have hx := x.isLt
  rw [readOperand, readNumber_hexNumber hk, ← hw, Nat.mod_eq_of_lt hx]
  simp [hx]

/-! #### Words in a line -/

/-- The text begins and ends with a plain character. -/
structure PlainEnds (cs : List Char) : Prop where
  first : ∃ c back, Plain c ∧ cs = c :: back
  last : ∃ d front, Plain d ∧ cs = front ++ [d]

theorem PlainWord.plainEnds {cs : List Char} (h : PlainWord cs) : PlainEnds cs := by
  obtain ⟨c, back, hfront⟩ := List.exists_cons_of_ne_nil h.ne_nil
  have hback := (List.dropLast_concat_getLast h.ne_nil).symm
  exact ⟨⟨c, back, h.plain c (by simp [hfront]), hfront⟩, ⟨_, _, h.plain _ (List.getLast_mem h.ne_nil), hback⟩⟩

theorem PlainEnds.append {xs ys : List Char} (hx : PlainEnds xs) (hy : PlainEnds ys) (between : List Char) :
    PlainEnds (xs ++ (between ++ ys)) := by
  obtain ⟨c, back, hc, rfl⟩ := hx.first
  obtain ⟨d, front, hd, rfl⟩ := hy.last
  exact ⟨⟨c, back ++ (between ++ (front ++ [d])), hc, rfl⟩, ⟨d, c :: back ++ (between ++ front), hd, by simp⟩⟩

theorem dropWhile_isBlank_of_plain {c : Char} (hc : Plain c) (cs : List Char) :
    (c :: cs).dropWhile isBlank = c :: cs := by
  rw [List.dropWhile_cons, hc.not_blank]
  rfl

/-- Such a text has no blanks to lose. -/
theorem PlainEnds.trim {cs : List Char} (h : PlainEnds cs) : trim cs = cs := by
  obtain ⟨c, back, hc, hfront⟩ := h.first
  obtain ⟨d, front, hd, hback⟩ := h.last
  have hreverse : cs.reverse = d :: front.reverse := by simp [hback]
  rw [Machine.trim, hfront, dropWhile_isBlank_of_plain hc, ← hfront, hreverse, dropWhile_isBlank_of_plain hd,
    ← hreverse, List.reverse_reverse]

/-- A space in front is lost. -/
theorem trim_space_cons (cs : List Char) : trim (' ' :: cs) = trim cs := rfl

theorem PlainWord.no_comment {cs : List Char} (h : PlainWord cs) : ∀ c ∈ cs, c ≠ ';' :=
  fun c hc => (h.plain c hc).not_comment

/-- A line with plain ends and no comment is its own body. -/
theorem lineBody_of_plainEnds {cs : List Char} (h : PlainEnds cs) (hcomment : ∀ c ∈ cs, c ≠ ';') :
    lineBody cs = cs := by
  have hwhole : cs.takeWhile (fun c => c != ';') = cs :=
    List.takeWhile_eq_self_iff.mpr fun c hc => by simpa using hcomment c hc
  rw [lineBody, hwhole, h.trim]

theorem PlainWord.not_isBlank {cs : List Char} (h : PlainWord cs) : ∀ c ∈ cs, (!isBlank c) = true := by
  intro c hc
  rw [(h.plain c hc).not_blank]
  rfl

/-- The first word of a text ends at the first space. -/
theorem lineWord_word_space (rest : List Char) {m : List Char} (hm : PlainWord m) :
    lineWord (m ++ ' ' :: rest) = m := by
  rw [lineWord, List.takeWhile_append_of_pos hm.not_isBlank]
  exact List.append_nil m

theorem lineWord_word {m : List Char} (hm : PlainWord m) : lineWord m = m :=
  List.takeWhile_eq_self_iff.mpr hm.not_isBlank

/-- What follows the first word are the operands. -/
theorem lineOperands_word_space {m ops : List Char} (hm : PlainWord m) (hops : PlainEnds ops) :
    lineOperands (m ++ ' ' :: ops) = (splitAt ',' ops).map trim := by
  have hrest : (m ++ ' ' :: ops).dropWhile (fun c => !isBlank c) = ' ' :: ops :=
    List.dropWhile_append_of_pos hm.not_isBlank
  obtain ⟨c, back, _, rfl⟩ := hops.first
  rw [lineOperands, hrest, trim_space_cons, hops.trim]

theorem lineOperands_word {m : List Char} (hm : PlainWord m) : lineOperands m = [] := by
  have hnone : m.dropWhile (fun c => !isBlank c) = [] := List.dropWhile_eq_nil_iff.mpr hm.not_isBlank
  rw [lineOperands, hnone]
  rfl

/-- A plain word is not cut at a comma. -/
theorem splitAt_comma_word {w : List Char} (hw : ∀ c ∈ w, Plain c) : splitAt ',' w = [w] := by
  induction w with
  | nil => rfl
  | cons c cs ih =>
    obtain ⟨hc, hcs⟩ := List.forall_mem_cons.mp hw
    rw [splitAt, if_neg hc.not_comma, ih hcs]

/-- The first comma ends the first part. -/
theorem splitAt_comma_append {w : List Char} (hw : ∀ c ∈ w, Plain c) (rest : List Char) :
    splitAt ',' (w ++ ',' :: rest) = w :: splitAt ',' rest := by
  induction w with
  | nil => exact if_pos rfl
  | cons c cs ih =>
    obtain ⟨hc, hcs⟩ := List.forall_mem_cons.mp hw
    rw [List.cons_append, splitAt, if_neg hc.not_comma, ih hcs]

/-! #### Lines of one, two and three words -/

theorem readLine_word {m : List Char} (hm : PlainWord m) : readLine m = readCommand m [] := by
  rw [readLine, lineBody_of_plainEnds hm.plainEnds hm.no_comment, lineWord_word hm, lineOperands_word hm]

/-- A line of a word and operands, by the operands' text. -/
theorem readLine_word_space {m ops : List Char} (hm : PlainWord m) (hops : PlainEnds ops)
    (hcomment : ∀ c ∈ ops, c ≠ ';') : readLine (m ++ ' ' :: ops) = readCommand m ((splitAt ',' ops).map trim) := by
  have hends : PlainEnds (m ++ ' ' :: ops) := hm.plainEnds.append hops [' ']
  have hline : ∀ c ∈ m ++ ' ' :: ops, c ≠ ';' := by
    intro c hc
    obtain hc | rfl | hc := by simpa using hc
    · exact hm.no_comment c hc
    · decide
    · exact hcomment c hc
  rw [readLine, lineBody_of_plainEnds hends hline, lineWord_word_space ops hm, lineOperands_word_space hm hops]

theorem readLine_one_operand {m x : List Char} (hm : PlainWord m) (hx : PlainWord x) :
    readLine (m ++ ' ' :: x) = readCommand m [x] := by
  rw [readLine_word_space hm hx.plainEnds hx.no_comment, splitAt_comma_word hx.plain, List.map_singleton,
    hx.plainEnds.trim]

theorem readLine_two_operands {m x y : List Char} (hm : PlainWord m) (hx : PlainWord x) (hy : PlainWord y) :
    readLine (m ++ ' ' :: (x ++ ',' :: ' ' :: y)) = readCommand m [x, y] := by
  have hcomment : ∀ c ∈ x ++ ',' :: ' ' :: y, c ≠ ';' := by
    intro c hc
    obtain hc | rfl | rfl | hc := by simpa using hc
    · exact hx.no_comment c hc
    · decide
    · decide
    · exact hy.no_comment c hc
  have hends : PlainEnds (x ++ ',' :: ' ' :: y) := hx.plainEnds.append hy.plainEnds [',', ' ']
  have hsecond : splitAt ',' (' ' :: y) = [' ' :: y] := by
    rw [splitAt, if_neg (by decide), splitAt_comma_word hy.plain]
  rw [readLine_word_space hm hends hcomment, splitAt_comma_append hx.plain,
    hsecond, List.map_cons, List.map_singleton, hx.plainEnds.trim, trim_space_cons, hy.plainEnds.trim]

/-- Whether a text is a plain word, computed. -/
theorem plainWord_of_all {cs : List Char} (hne : cs.isEmpty = false)
    (hall : cs.all (fun c => !isBlank c && c != ',' && c != ';') = true) : PlainWord cs := by
  refine ⟨by simpa using hne, fun c hc => ?_⟩
  have hplain := List.all_eq_true.mp hall c hc
  simp only [Bool.and_eq_true, Bool.not_eq_true', bne_iff_ne] at hplain
  obtain ⟨⟨hblank, hcomma⟩, hcomment⟩ := hplain
  exact ⟨hblank, hcomma, hcomment⟩

theorem mnemonic_plainWord (i : Instr) : PlainWord (mnemonic i).toList := by
  cases i with
  | seed a b => exact plainWord_of_all (cs := "SEED".toList) rfl (by decide)
  | seedState a => exact plainWord_of_all (cs := "SEED_STATE".toList) rfl (by decide)
  | nextU32 => exact plainWord_of_all (cs := "NEXT_U32".toList) rfl (by decide)
  | range b => exact plainWord_of_all (cs := "RANGE".toList) rfl (by decide)
  | rdState => exact plainWord_of_all (cs := "RD_STATE".toList) rfl (by decide)
  | rdInc => exact plainWord_of_all (cs := "RD_INC".toList) rfl (by decide)

theorem readCommand_seed (a b : U64) :
    readCommand "SEED".toList [hexNumber 16 a.toNat, hexNumber 16 b.toNat] = some (.seed a b) := by
  rw [readCommand, if_pos rfl]
  simp only [readOperand_hexNumber (w := 64) (k := 16) (by decide) (by decide)]

theorem readCommand_seedState (a : U64) :
    readCommand "SEED_STATE".toList [hexNumber 16 a.toNat] = some (.seedState a) := by
  rw [readCommand, if_neg (by decide), if_pos rfl]
  simp only [readOperand_hexNumber (w := 64) (k := 16) (by decide) (by decide), Option.map_some]

theorem readCommand_range (b : U32) : readCommand "RANGE".toList [hexNumber 8 b.toNat] = some (.range b) := by
  rw [readCommand, if_neg (by decide), if_neg (by decide), if_neg (by decide), if_pos rfl]
  simp only [readOperand_hexNumber (w := 32) (k := 8) (by decide) (by decide), Option.map_some]

/-- Settles O59: the written line is cut into the mnemonic and its operands, and these are read back. -/
theorem scriptLineIsReadBack : Obligations.ScriptLineIsReadBack := by
  unfold Obligations.ScriptLineIsReadBack
  intro i
  have hm := mnemonic_plainWord i
  cases i with
  | seed a b =>
    have hline : writeLine (.seed a b) = (mnemonic (.seed a b)).toList ++
        ' ' :: (hexNumber 16 a.toNat ++ ',' :: ' ' :: hexNumber 16 b.toNat) := by
      simp [writeLine]
    rw [hline, readLine_two_operands hm (hexNumber_plainWord _ _) (hexNumber_plainWord _ _)]
    exact readCommand_seed a b
  | seedState a =>
    have hline : writeLine (.seedState a) = (mnemonic (.seedState a)).toList ++ ' ' :: hexNumber 16 a.toNat := by
      simp [writeLine]
    rw [hline, readLine_one_operand hm (hexNumber_plainWord _ _)]
    exact readCommand_seedState a
  | range b =>
    have hline : writeLine (.range b) = (mnemonic (.range b)).toList ++ ' ' :: hexNumber 8 b.toNat := by
      simp [writeLine]
    rw [hline, readLine_one_operand hm (hexNumber_plainWord _ _)]
    exact readCommand_range b
  | nextU32 => exact (readLine_word hm).trans (by decide)
  | rdState => exact (readLine_word hm).trans (by decide)
  | rdInc => exact (readLine_word hm).trans (by decide)

end Sys2Proof.Machine
end
